-- ==== Sys2Proof/Word.lean ====
section
/-! DEFINITION. The words of the machine: bytes, 16-bit words, source text. -/

namespace Sys2Proof

/-- One byte: A, B, DP, CC and every memory byte (R20 of `10_state.md`, R60 of `20_memory.md`). -/
abbrev Byte := BitVec 8

/-- One 16-bit word: X, Y, U, S, PC, D and every address (R20, R22 of `10_state.md`). -/
abbrev Word := BitVec 16

/-- Source and operand text of the assembler and the disassembler (R121 of `30_encoding.md`). -/
abbrev Text := List Char

end Sys2Proof
end

