-- ==== Sys2Proof/Machine/Bits.lean ====
section
/-! DEFINITION. Byte order, extension and masking helpers (R6 of `00_scope.md`, R65 of `20_memory.md`). -/

namespace Sys2Proof

/-- Bits 15:8 of a word. -/
def hiByte (w : Word) : Byte := w.extractLsb' 8 8

/-- Bits 7:0 of a word. -/
def loByte (w : Word) : Byte := w.extractLsb' 0 8

/-- `hi:lo`: the concatenation with `hi` in the high bits (R6, R65). -/
def wordOf (hi lo : Byte) : Word := hi ++ lo

/-- `zext_16` of a byte (R8). -/
def zext16 (v : Byte) : Word := v.setWidth 16

/-- `sext_16` of a byte (R8, R106 of `30_encoding.md`). -/
def sext16 (v : Byte) : Word := v.signExtend 16

/-- `sext_16` of a 5-bit offset (R8, R97 of `30_encoding.md`). -/
def sext5 (v : BitVec 5) : Word := v.signExtend 16

end Sys2Proof
end

