-- ==== Sys2Proof/Syntax.lean ====
section
/-! DEFINITION. The instructions of the default opcode table (`spec/opcode_table.json`, R110 to R116 of `30_encoding.md`)
and their operands. -/

namespace Sys2Proof

/-- The registers by name: a register-name operand is one of these (R20 of `10_state.md`, R144 of `40_fetch_execute.md`).
D is the view A:B (R23). -/
inductive Reg where
  | A | B | D | X | Y | U | S | PC | DP | CC
  deriving DecidableEq, Repr

/-- The page of an opcode: no prefix, prefix 0x10, prefix 0x11 (R31 of `10_state.md`). -/
inductive Page where
  | p0 | p10 | p11
  deriving DecidableEq, Repr

/-- The instruction formats (R91 of `30_encoding.md`); `pager` is the format PREFIX. -/
inductive Format where
  | inh | imm8 | imm16 | dir | ext | idx | rel8 | rel16 | rpair | rlist | pager
  deriving DecidableEq, Repr

/-- The mnemonics of the default opcode table; the two page-prefix entries are the last two. -/
inductive Mnemonic where
  | lda | ldb | ldd | ldx | ldy | ldu | lds | sta | stb | std | stx | sty | stu | sts | leax | leay | leas | leau
  | tfr | exg | adda | addb | adca | adcb | addd | suba | subb | sbca | sbcb | subd | cmpa | cmpb | cmpd | cmpx
  | cmpy | cmpu | cmps | neg | nega | negb | inc | inca | incb | dec | deca | decb | tst | tsta | tstb | clr | clra
  | clrb | mul | daa | sex | abx | anda | andb | ora | orb | eora | eorb | bita | bitb | com | coma | comb | lsr
  | lsra | lsrb | ror | rora | rorb | asr | asra | asrb | lsl | lsla | lslb | rol | rola | rolb | andcc | orcc
  | bra | brn | bhi | bls | bcc | bcs | bne | beq | bvc | bvs | bpl | bmi | bge | blt | bgt | ble | lbra | lbrn
  | lbhi | lbls | lbcc | lbcs | lbne | lbeq | lbvc | lbvs | lbpl | lbmi | lbge | lblt | lbgt | lble | bsr | lbsr
  | jsr | rts | jmp | pshs | puls | pshu | pulu | swi | swi2 | swi3 | rti | cwai | sync | nop | prefix10 | prefix11
  deriving DecidableEq, Repr

/-- The base registers of an indexed operand, in the order of their codes (R97 of `30_encoding.md`). -/
inductive IdxReg where
  | X | Y | U | S
  deriving DecidableEq, Repr

/-- The sub-modes of an indexed postbyte with bit 7 set (R98 of `30_encoding.md`). -/
inductive IdxMode where
  /-- `,R+` -/
  | inc1
  /-- `,R++` -/
  | inc2
  /-- `,-R` -/
  | dec1
  /-- `,--R` -/
  | dec2
  /-- `,R` -/
  | zero
  /-- `B,R` -/
  | accB
  /-- `A,R` -/
  | accA
  /-- `n8,R` -/
  | off8 (n : Byte)
  /-- `n16,R` -/
  | off16 (n : Word)
  /-- `D,R` -/
  | accD
  /-- `n8,PCR` -/
  | pcr8 (n : Byte)
  /-- `n16,PCR` -/
  | pcr16 (n : Word)
  /-- `[n16]` -/
  | abs (w : Word)
  /-- One of the undefined codes 7, 0xA, 0xE (R119 of `30_encoding.md`). -/
  | undefined (code : BitVec 4)
  deriving DecidableEq, Repr

/-- An indexed operand: the postbyte and its extra bytes (R97, R98 of `30_encoding.md`). The register field is kept in
the modes that ignore it, so that no bit of the postbyte is lost. -/
inductive Index where
  /-- Bit 7 clear: the signed 5-bit offset form. -/
  | off5 (r : IdxReg) (n : BitVec 5)
  /-- Bit 7 set: a sub-mode, with the indirect bit. -/
  | mode (r : IdxReg) (indirect : Bool) (m : IdxMode)
  deriving DecidableEq, Repr

/-- A memory operand: the formats DIR, EXT and IDX (R260 of `42_load_store_transfer.md`). -/
inductive MemOp where
  | dir (lo : Byte)
  | ext (addr : Word)
  | idx (ix : Index)
  deriving DecidableEq, Repr

/-- An 8-bit source operand: IMM8 or memory (R260 `Operand8`). -/
inductive Src8 where
  | imm (v : Byte)
  | mem (m : MemOp)
  deriving DecidableEq, Repr

/-- A 16-bit source operand: IMM16 or memory (R260 `Operand16`). -/
inductive Src16 where
  | imm (v : Word)
  | mem (m : MemOp)
  deriving DecidableEq, Repr

/-- One half of a register-pair postbyte: a register, or an undefined code 6, 7, 0xC to 0xF (R101, R119 of
`30_encoding.md`). -/
inductive PairReg where
  | reg (r : Reg)
  | undefined (code : BitVec 4)
  deriving DecidableEq, Repr

/-- The operand bytes of an instruction, by format (R91 of `30_encoding.md`). -/
inductive Operand where
  | inh
  | imm8 (v : Byte)
  | imm16 (v : Word)
  | dir (lo : Byte)
  | ext (addr : Word)
  | idx (ix : Index)
  | rel8 (disp : Byte)
  | rel16 (disp : Word)
  | rpair (src dst : PairReg)
  | rlist (list : Byte)
  | pager
  deriving DecidableEq, Repr

/-- The instructions: one constructor for each mnemonic of the opcode table, its operand admitting the formats the table
gives that mnemonic (log 6). -/
inductive Instr where
  /-- LDA: IMM8, DIR, IDX, EXT. R261 of `42_load_store_transfer.md`. -/
  | lda (src : Src8)
  /-- LDB: IMM8, DIR, IDX, EXT. R262 of `42_load_store_transfer.md`. -/
  | ldb (src : Src8)
  /-- LDD: IMM16, DIR, IDX, EXT. R263 of `42_load_store_transfer.md`. -/
  | ldd (src : Src16)
  /-- LDX: IMM16, DIR, IDX, EXT. R264 of `42_load_store_transfer.md`. -/
  | ldx (src : Src16)
  /-- LDY: IMM16, DIR, IDX, EXT. R265 of `42_load_store_transfer.md`. -/
  | ldy (src : Src16)
  /-- LDU: IMM16, DIR, IDX, EXT. R266 of `42_load_store_transfer.md`. -/
  | ldu (src : Src16)
  /-- LDS: IMM16, DIR, IDX, EXT. R267 of `42_load_store_transfer.md`. -/
  | lds (src : Src16)
  /-- STA: DIR, IDX, EXT. R270 of `42_load_store_transfer.md`. -/
  | sta (m : MemOp)
  /-- STB: DIR, IDX, EXT. R271 of `42_load_store_transfer.md`. -/
  | stb (m : MemOp)
  /-- STD: DIR, IDX, EXT. R272 of `42_load_store_transfer.md`. -/
  | std (m : MemOp)
  /-- STX: DIR, IDX, EXT. R273 of `42_load_store_transfer.md`. -/
  | stx (m : MemOp)
  /-- STY: DIR, IDX, EXT. R274 of `42_load_store_transfer.md`. -/
  | sty (m : MemOp)
  /-- STU: DIR, IDX, EXT. R275 of `42_load_store_transfer.md`. -/
  | stu (m : MemOp)
  /-- STS: DIR, IDX, EXT. R276 of `42_load_store_transfer.md`. -/
  | sts (m : MemOp)
  /-- LEAX: IDX. R285 of `42_load_store_transfer.md`. -/
  | leax (ix : Index)
  /-- LEAY: IDX. R286 of `42_load_store_transfer.md`. -/
  | leay (ix : Index)
  /-- LEAS: IDX. R287 of `42_load_store_transfer.md`. -/
  | leas (ix : Index)
  /-- LEAU: IDX. R288 of `42_load_store_transfer.md`. -/
  | leau (ix : Index)
  /-- TFR: RPAIR. R290 of `42_load_store_transfer.md`. -/
  | tfr (src : PairReg) (dst : PairReg)
  /-- EXG: RPAIR. R291 of `42_load_store_transfer.md`. -/
  | exg (src : PairReg) (dst : PairReg)
  /-- ADDA: IMM8, DIR, IDX, EXT. R300 of `43_arithmetic.md`. -/
  | adda (src : Src8)
  /-- ADDB: IMM8, DIR, IDX, EXT. R301 of `43_arithmetic.md`. -/
  | addb (src : Src8)
  /-- ADCA: IMM8, DIR, IDX, EXT. R302 of `43_arithmetic.md`. -/
  | adca (src : Src8)
  /-- ADCB: IMM8, DIR, IDX, EXT. R303 of `43_arithmetic.md`. -/
  | adcb (src : Src8)
  /-- ADDD: IMM16, DIR, IDX, EXT. R304 of `43_arithmetic.md`. -/
  | addd (src : Src16)
  /-- SUBA: IMM8, DIR, IDX, EXT. R305 of `43_arithmetic.md`. -/
  | suba (src : Src8)
  /-- SUBB: IMM8, DIR, IDX, EXT. R306 of `43_arithmetic.md`. -/
  | subb (src : Src8)
  /-- SBCA: IMM8, DIR, IDX, EXT. R307 of `43_arithmetic.md`. -/
  | sbca (src : Src8)
  /-- SBCB: IMM8, DIR, IDX, EXT. R308 of `43_arithmetic.md`. -/
  | sbcb (src : Src8)
  /-- SUBD: IMM16, DIR, IDX, EXT. R309 of `43_arithmetic.md`. -/
  | subd (src : Src16)
  /-- CMPA: IMM8, DIR, IDX, EXT. R320 of `43_arithmetic.md`. -/
  | cmpa (src : Src8)
  /-- CMPB: IMM8, DIR, IDX, EXT. R321 of `43_arithmetic.md`. -/
  | cmpb (src : Src8)
  /-- CMPD: IMM16, DIR, IDX, EXT. R322 of `43_arithmetic.md`. -/
  | cmpd (src : Src16)
  /-- CMPX: IMM16, DIR, IDX, EXT. R323 of `43_arithmetic.md`. -/
  | cmpx (src : Src16)
  /-- CMPY: IMM16, DIR, IDX, EXT. R324 of `43_arithmetic.md`. -/
  | cmpy (src : Src16)
  /-- CMPU: IMM16, DIR, IDX, EXT. R325 of `43_arithmetic.md`. -/
  | cmpu (src : Src16)
  /-- CMPS: IMM16, DIR, IDX, EXT. R326 of `43_arithmetic.md`. -/
  | cmps (src : Src16)
  /-- NEG: DIR, IDX, EXT. R330 of `43_arithmetic.md`. -/
  | neg (m : MemOp)
  /-- NEGA: INH. R331 of `43_arithmetic.md`. -/
  | nega
  /-- NEGB: INH. R332 of `43_arithmetic.md`. -/
  | negb
  /-- INC: DIR, IDX, EXT. R333 of `43_arithmetic.md`. -/
  | inc (m : MemOp)
  /-- INCA: INH. R334 of `43_arithmetic.md`. -/
  | inca
  /-- INCB: INH. R335 of `43_arithmetic.md`. -/
  | incb
  /-- DEC: DIR, IDX, EXT. R336 of `43_arithmetic.md`. -/
  | dec (m : MemOp)
  /-- DECA: INH. R337 of `43_arithmetic.md`. -/
  | deca
  /-- DECB: INH. R338 of `43_arithmetic.md`. -/
  | decb
  /-- TST: DIR, IDX, EXT. R339 of `43_arithmetic.md`. -/
  | tst (m : MemOp)
  /-- TSTA: INH. R340 of `43_arithmetic.md`. -/
  | tsta
  /-- TSTB: INH. R341 of `43_arithmetic.md`. -/
  | tstb
  /-- CLR: DIR, IDX, EXT. R342 of `43_arithmetic.md`. -/
  | clr (m : MemOp)
  /-- CLRA: INH. R343 of `43_arithmetic.md`. -/
  | clra
  /-- CLRB: INH. R344 of `43_arithmetic.md`. -/
  | clrb
  /-- MUL: INH. R360 of `43_arithmetic.md`. -/
  | mul
  /-- DAA: INH. R361 of `43_arithmetic.md`. -/
  | daa
  /-- SEX: INH. R362 of `43_arithmetic.md`. -/
  | sex
  /-- ABX: INH. R363 of `43_arithmetic.md`. -/
  | abx
  /-- ANDA: IMM8, DIR, IDX, EXT. R370 of `44_logic_shift.md`. -/
  | anda (src : Src8)
  /-- ANDB: IMM8, DIR, IDX, EXT. R371 of `44_logic_shift.md`. -/
  | andb (src : Src8)
  /-- ORA: IMM8, DIR, IDX, EXT. R372 of `44_logic_shift.md`. -/
  | ora (src : Src8)
  /-- ORB: IMM8, DIR, IDX, EXT. R373 of `44_logic_shift.md`. -/
  | orb (src : Src8)
  /-- EORA: IMM8, DIR, IDX, EXT. R374 of `44_logic_shift.md`. -/
  | eora (src : Src8)
  /-- EORB: IMM8, DIR, IDX, EXT. R375 of `44_logic_shift.md`. -/
  | eorb (src : Src8)
  /-- BITA: IMM8, DIR, IDX, EXT. R376 of `44_logic_shift.md`. -/
  | bita (src : Src8)
  /-- BITB: IMM8, DIR, IDX, EXT. R377 of `44_logic_shift.md`. -/
  | bitb (src : Src8)
  /-- COM: DIR, IDX, EXT. R380 of `44_logic_shift.md`. -/
  | com (m : MemOp)
  /-- COMA: INH. R381 of `44_logic_shift.md`. -/
  | coma
  /-- COMB: INH. R382 of `44_logic_shift.md`. -/
  | comb
  /-- LSR: DIR, IDX, EXT. R383 of `44_logic_shift.md`. -/
  | lsr (m : MemOp)
  /-- LSRA: INH. R384 of `44_logic_shift.md`. -/
  | lsra
  /-- LSRB: INH. R385 of `44_logic_shift.md`. -/
  | lsrb
  /-- ROR: DIR, IDX, EXT. R386 of `44_logic_shift.md`. -/
  | ror (m : MemOp)
  /-- RORA: INH. R387 of `44_logic_shift.md`. -/
  | rora
  /-- RORB: INH. R388 of `44_logic_shift.md`. -/
  | rorb
  /-- ASR: DIR, IDX, EXT. R389 of `44_logic_shift.md`. -/
  | asr (m : MemOp)
  /-- ASRA: INH. R390 of `44_logic_shift.md`. -/
  | asra
  /-- ASRB: INH. R391 of `44_logic_shift.md`. -/
  | asrb
  /-- LSL: DIR, IDX, EXT. R392 of `44_logic_shift.md`. -/
  | lsl (m : MemOp)
  /-- LSLA: INH. R393 of `44_logic_shift.md`. -/
  | lsla
  /-- LSLB: INH. R394 of `44_logic_shift.md`. -/
  | lslb
  /-- ROL: DIR, IDX, EXT. R395 of `44_logic_shift.md`. -/
  | rol (m : MemOp)
  /-- ROLA: INH. R396 of `44_logic_shift.md`. -/
  | rola
  /-- ROLB: INH. R397 of `44_logic_shift.md`. -/
  | rolb
  /-- ANDCC: IMM8. R410 of `44_logic_shift.md`. -/
  | andcc (mask : Byte)
  /-- ORCC: IMM8. R411 of `44_logic_shift.md`. -/
  | orcc (mask : Byte)
  /-- BRA: REL8. R421 of `45_branch_jump.md`. -/
  | bra (disp : Byte)
  /-- BRN: REL8. R422 of `45_branch_jump.md`. -/
  | brn (disp : Byte)
  /-- BHI: REL8. R423 of `45_branch_jump.md`. -/
  | bhi (disp : Byte)
  /-- BLS: REL8. R424 of `45_branch_jump.md`. -/
  | bls (disp : Byte)
  /-- BCC: REL8. R425 of `45_branch_jump.md`. -/
  | bcc (disp : Byte)
  /-- BCS: REL8. R426 of `45_branch_jump.md`. -/
  | bcs (disp : Byte)
  /-- BNE: REL8. R427 of `45_branch_jump.md`. -/
  | bne (disp : Byte)
  /-- BEQ: REL8. R428 of `45_branch_jump.md`. -/
  | beq (disp : Byte)
  /-- BVC: REL8. R429 of `45_branch_jump.md`. -/
  | bvc (disp : Byte)
  /-- BVS: REL8. R430 of `45_branch_jump.md`. -/
  | bvs (disp : Byte)
  /-- BPL: REL8. R431 of `45_branch_jump.md`. -/
  | bpl (disp : Byte)
  /-- BMI: REL8. R432 of `45_branch_jump.md`. -/
  | bmi (disp : Byte)
  /-- BGE: REL8. R433 of `45_branch_jump.md`. -/
  | bge (disp : Byte)
  /-- BLT: REL8. R434 of `45_branch_jump.md`. -/
  | blt (disp : Byte)
  /-- BGT: REL8. R435 of `45_branch_jump.md`. -/
  | bgt (disp : Byte)
  /-- BLE: REL8. R436 of `45_branch_jump.md`. -/
  | ble (disp : Byte)
  /-- LBRA: REL16. R442 of `45_branch_jump.md`. -/
  | lbra (disp : Word)
  /-- LBRN: REL16. R443 of `45_branch_jump.md`. -/
  | lbrn (disp : Word)
  /-- LBHI: REL16. R444 of `45_branch_jump.md`. -/
  | lbhi (disp : Word)
  /-- LBLS: REL16. R445 of `45_branch_jump.md`. -/
  | lbls (disp : Word)
  /-- LBCC: REL16. R446 of `45_branch_jump.md`. -/
  | lbcc (disp : Word)
  /-- LBCS: REL16. R447 of `45_branch_jump.md`. -/
  | lbcs (disp : Word)
  /-- LBNE: REL16. R448 of `45_branch_jump.md`. -/
  | lbne (disp : Word)
  /-- LBEQ: REL16. R449 of `45_branch_jump.md`. -/
  | lbeq (disp : Word)
  /-- LBVC: REL16. R450 of `45_branch_jump.md`. -/
  | lbvc (disp : Word)
  /-- LBVS: REL16. R451 of `45_branch_jump.md`. -/
  | lbvs (disp : Word)
  /-- LBPL: REL16. R452 of `45_branch_jump.md`. -/
  | lbpl (disp : Word)
  /-- LBMI: REL16. R453 of `45_branch_jump.md`. -/
  | lbmi (disp : Word)
  /-- LBGE: REL16. R454 of `45_branch_jump.md`. -/
  | lbge (disp : Word)
  /-- LBLT: REL16. R455 of `45_branch_jump.md`. -/
  | lblt (disp : Word)
  /-- LBGT: REL16. R456 of `45_branch_jump.md`. -/
  | lbgt (disp : Word)
  /-- LBLE: REL16. R457 of `45_branch_jump.md`. -/
  | lble (disp : Word)
  /-- BSR: REL8. R460 of `45_branch_jump.md`. -/
  | bsr (disp : Byte)
  /-- LBSR: REL16. R461 of `45_branch_jump.md`. -/
  | lbsr (disp : Word)
  /-- JSR: DIR, IDX, EXT. R462 of `45_branch_jump.md`. -/
  | jsr (m : MemOp)
  /-- RTS: INH. R463 of `45_branch_jump.md`. -/
  | rts
  /-- JMP: DIR, IDX, EXT. R464 of `45_branch_jump.md`. -/
  | jmp (m : MemOp)
  /-- PSHS: RLIST. R470 of `46_stack_system.md`. -/
  | pshs (list : Byte)
  /-- PULS: RLIST. R471 of `46_stack_system.md`. -/
  | puls (list : Byte)
  /-- PSHU: RLIST. R472 of `46_stack_system.md`. -/
  | pshu (list : Byte)
  /-- PULU: RLIST. R473 of `46_stack_system.md`. -/
  | pulu (list : Byte)
  /-- SWI: INH. R480 of `46_stack_system.md`. -/
  | swi
  /-- SWI2: INH. R481 of `46_stack_system.md`. -/
  | swi2
  /-- SWI3: INH. R482 of `46_stack_system.md`. -/
  | swi3
  /-- RTI: INH. R483 of `46_stack_system.md`. -/
  | rti
  /-- CWAI: IMM8. R485 of `46_stack_system.md`. -/
  | cwai (mask : Byte)
  /-- SYNC: INH. R486 of `46_stack_system.md`. -/
  | sync
  /-- NOP: INH. R487 of `46_stack_system.md`. -/
  | nop
  /-- PREFIX10: PREFIX. R490 of `46_stack_system.md`. -/
  | prefix10
  /-- PREFIX11: PREFIX. R491 of `46_stack_system.md`. -/
  | prefix11
  deriving DecidableEq, Repr

end Sys2Proof
end

