-- ==== Sys2Proof/Config.lean ====
section
/-! DEFINITION. What an implementation fixes: the open parameters of R5 of `00_scope.md`, and the free values. -/

namespace Sys2Proof.Machine

/-- The four kinds of interrupt, in priority order (R34, R606 of `60_exceptions.md`). -/
inductive IntKind where
  | reset | nmi | firq | irq
  deriving DecidableEq, Repr

/-- The condition-code operands of `chk` (R144, R166 of `40_fetch_execute.md`). -/
inductive ChkCond where
  | Z | C | N | V | LS | LT | LE
  deriving DecidableEq, Repr

end Sys2Proof.Machine

namespace Sys2Proof

open Machine (IntKind ChkCond)

/-! ### The parameter `OPCODE_TABLE`: Instruction records with their microcode (R37 of `10_state.md`, R143) -/

/-- The two scratch registers: where a fetched operand goes (R30, R150, R161 of `40_fetch_execute.md`). -/
inductive Scratch where
  | r1 | r2
  deriving DecidableEq, Repr

/-- The three software interrupts of the `swi` primitive (R172, R614 of `60_exceptions.md`). -/
inductive SwiKind where
  | swi | swi2 | swi3
  deriving DecidableEq, Repr

/-- The ALU primitives (R205 to R228 of `41_alu_flag_unit.md`). -/
inductive AluOp where
  | add8 | adc8 | add16 | sub8 | sbc8 | sub16 | neg8 | and8 | or8 | eor8 | com8 | inc8 | dec8 | tst8 | tst16 | clr8
  | lsr8 | ror8 | asr8 | lsl8 | rol8 | mul | abx | daa
  deriving DecidableEq, Repr

/-- A microcode token: a primitive operation with its operand (R143, R144, R150 to R175). -/
inductive Token where
  | pcb (d : Scratch) | pcw (d : Scratch) | drct | xtnd | rel8 | rel16 | indx | idxu
  | ld1 (r : Reg) | ld2 (r : Reg) | st1 (r : Reg) | st2 (r : Reg)
  /-- `x[reg] <- EA`: the `st PC <- EA` of R167, and the operation of R177 that loads an effective address. -/
  | stEa (r : Reg)
  | ftch8 (d : Scratch) | ftch16 (d : Scratch) | stor8 | stor16
  /-- `rgop` with the transfer of TFR or the exchange of EXG that follows it (R165). -/
  | rgop (exchange : Bool)
  | alu (op : AluOp)
  | chk (c : ChkCond) | qt | qf | page | ntck | sync | wait | swi (k : SwiKind) | rti | nop | err
  /-- The whole effect that the instruction rules give a mnemonic, its operand by the entry's format: the default program of
  an entry, whose primitives the source does not print (R143, R177; log 32). It ends the program: tokens after it are never run. -/
  | meaning (m : Mnemonic)
  deriving DecidableEq, Repr

/-- An Instruction record of a table (R37): its addressing mask is that of its format (R91, R105 of `30_encoding.md`). -/
structure TableEntry where
  mnemonic : Text
  format : Format
  page : Page
  opcode : Byte
  microcode : List Token
  deriving DecidableEq, Repr

/-- `OPCODE_TABLE` (R5): the default table of `opcode_table.json`, or any other list of Instruction records. -/
inductive OpcodeTable where
  | standard
  | custom (entries : List TableEntry)
  deriving DecidableEq, Repr

/-! ### The parameter `DEVICES` (D39 of `92_eei_decisions.md`) -/

/-- What a window owner may do to the machine from inside `update` (D39). -/
inductive DeviceAction where
  | latch (k : IntKind)
  | poke (addr : Word) (v : Byte)
  deriving DecidableEq, Repr

/-- One rule of the environment of devices: in a state, when an owner is told of an address and a value (`none`: any), the
state moves on and the actions happen in order (log 31). -/
structure DeviceRule where
  state : Nat
  owner : Nat
  address : Option Nat
  value : Option Byte
  next : Nat
  actions : List DeviceAction
  deriving DecidableEq, Repr

/-! ### The other parameters -/

/-- What a service pushes (`RESET_STACKING`, R5, R612): nothing, PC and CC (the rules' "partial"), or the entire state. -/
inductive Stacking where
  | none | pcAndCc | entire
  deriving DecidableEq, Repr

/-- What the driver does on `IllegalOpcode` events (`ILLEGAL_POLICY`, R5, R600). -/
inductive IllegalPolicy where
  /-- Execution continues (the default). -/
  | proceed
  /-- The driver force-stops the machine at the `n`-th event. -/
  | haltAfter (n : Nat)
  deriving DecidableEq, Repr

/-- How a flag that U8 of `93_implementation_defined.md` lists behaves (log 7). -/
inductive UndefinedFlags where
  /-- Unchanged: R204 and R245 of `41_alu_flag_unit.md`, D22. -/
  | unchanged
  /-- Any value: the other reading R204 and U8 give. -/
  | anyValue
  deriving DecidableEq, Repr

/-- The address of each interrupt vector (`VECTORS`, R611 of `60_exceptions.md`). -/
structure Vectors where
  reset : Word
  nmi : Word
  swi : Word
  irq : Word
  firq : Word
  swi2 : Word
  swi3 : Word
  deriving DecidableEq, Repr

/-- The parameters of R5 of `00_scope.md` that a run of the machine reads, and the treatment of U8 (log 4, log 7). -/
structure Config where
  /-- `MEM_SIZE` is 2 to this power: a power of two, 1 to 65536 (D3). -/
  memBits : Fin 17
  vectors : Vectors
  resetStacking : Stacking
  resetClearsDp : Bool
  cwaiPrestack : Bool
  illegalPolicy : IllegalPolicy
  /-- `OPCODE_TABLE`. -/
  opcodeTable : OpcodeTable
  /-- `DEVICES`: the rules of the window owners that can change the machine. -/
  devices : List DeviceRule
  /-- How many updates may stand inside one another (log 31). -/
  deviceNesting : Nat
  asmDefaultOrigin : Word
  asmInitialPc : Word
  undefinedFlags : UndefinedFlags
  deriving DecidableEq, Repr

/-- A free value for each flag that U8 leaves open: nothing is known of it (log 7). -/
opaque Config.freeFlag : Nat → Bool

/-- `INIT`: the register values at construction (R5, R40 of `10_state.md`). -/
structure Init where
  a : Byte
  b : Byte
  x : Word
  y : Word
  u : Word
  s : Word
  pc : Word
  dp : Byte
  cc : Byte
  deriving DecidableEq, Repr

end Sys2Proof
end

