-- ==== Sys2Proof/Machine/Defaults.lean ====
section
/-! DEFINITION. The default values of the open parameters (R5 of `00_scope.md`) and of `INIT` (R40 of `10_state.md`). -/

namespace Sys2Proof

/-- The default vector table (R611 of `60_exceptions.md`, D9). -/
def defaultVectors : Vectors where
  reset := 0xFFFE
  nmi := 0xFFFC
  swi := 0xFFFA
  irq := 0xFFF8
  firq := 0xFFF6
  swi2 := 0xFFF4
  swi3 := 0xFFF2

/-- The defaults of R5; `undefinedFlags` as R204 and R245 of `41_alu_flag_unit.md` have it (log 4, log 7). -/
def defaultConfig : Config where
  memBits := 16
  vectors := defaultVectors
  resetStacking := .none
  resetClearsDp := false
  cwaiPrestack := true
  illegalPolicy := .proceed
  opcodeTable := .standard
  devices := []
  deviceNesting := 8
  asmDefaultOrigin := 0x4000
  asmInitialPc := 0x4000
  undefinedFlags := .unchanged

/-- `INIT` at its default: every register 0 (R40, D7). DESIGN CHOICE: the source states no value; unsafe (log 2). -/
def defaultInit : Init where
  a := 0
  b := 0
  x := 0
  y := 0
  u := 0
  s := 0
  pc := 0
  dp := 0
  cc := 0

end Sys2Proof
end

