-- ==== Sys2Proof/Machine/State.lean ====
section
/-! DEFINITION. The state of the block as plain data, the reasons a step can stop, and the state after reset. -/

namespace Sys2Proof.Machine

/-- The run state (R33 of `10_state.md`). -/
inductive RunState where
  | running | waiting | syncing
  deriving DecidableEq, Repr

/-- The interrupt latches: four independent sticky booleans (R34, R603). -/
structure Latches where
  reset : Bool
  nmi : Bool
  firq : Bool
  irq : Bool
  deriving DecidableEq, Repr

/-- A window of memory (R67 of `20_memory.md`): its handle, its range and the name of its owner. -/
structure Window where
  handle : Nat
  base : Nat
  length : Nat
  owner : Nat
  deriving DecidableEq, Repr

/-- The output events of the block (R36, R62, R600; D2). -/
inductive Event where
  /-- `PcNotify(x[PC])`. -/
  | pcNotify (pc : Word)
  /-- `IllegalOpcode(op, page)`. -/
  | illegalOpcode (op : Byte) (page : Page)
  /-- `WindowUpdate(owner, address, value)`. -/
  | windowUpdate (owner : Nat) (address : Nat) (value : Byte)
  deriving DecidableEq, Repr

/-- The assembler's assumption of the direct page (R541 of `47_encoder.md`). -/
structure DirectPage where
  value : Byte
  inUse : Bool
  deriving DecidableEq, Repr

/-- A label: its upper-case name and its value (R505). -/
structure Label where
  name : Text
  value : Int
  deriving DecidableEq, Repr

/-- A code block (R544). -/
structure CodeBlock where
  base : Word
  bytes : List Byte
  deriving DecidableEq, Repr

/-- The assembler's errors; the message texts are free, so an error is a name (R504, R543; log 22). -/
inductive AsmError where
  | unresolvedLabel | malformedExpression | expressionRange | outOfRangeConstant | invalidInstruction | invalidPairing
  | invalidAddressingMode | invalidRegisterPair | ownStack | duplicateLabel | malformedOperand | malformedArguments
  | directOutOfRange | branchOutOfRange
  deriving DecidableEq, Repr

/-- The phase of an assembly run (R543). `idle`: no run has begun (log 20). -/
inductive AsmPhase where
  | idle | running | error | done
  deriving DecidableEq, Repr

/-- The status event of one line (R543). -/
structure StatusEvent where
  phase : AsmPhase
  passNumber : Nat
  lineNumber : Nat
  message : Option AsmError
  sourceLine : Text
  deriving DecidableEq, Repr

/-- The state of the encoder subsystem (R541, R544, R505, R542). The engine reads none of it (R38). -/
structure AsmState where
  source : List Text
  cursor : Nat
  passNo : Nat
  programCounter : Word
  directPage : DirectPage
  ended : Bool
  errorFlag : Bool
  labels : List Label
  /-- Closed blocks, oldest first. -/
  blocks : List CodeBlock
  openBlock : CodeBlock
  phase : AsmPhase
  startAddress : Option Word
  status : Option StatusEvent
  deriving DecidableEq, Repr

/-- The state of the block: register file, engine scratch, latches, memory, windows, devices, output events, the
encoder subsystem, and the parameters the machine was built with. INVENTORY.md lists the rule of every field. -/
structure State where
  a : Byte
  b : Byte
  x : Word
  y : Word
  u : Word
  s : Word
  pc : Word
  dp : Byte
  cc : Byte
  r1 : Word
  r2 : Word
  ea : Word
  cond : Bool
  op : Byte
  page : Page
  ntck : Bool
  run : RunState
  latches : Latches
  mem : List Host.Cell
  windows : List Window
  nextHandle : Nat
  deviceState : Nat
  events : List Event
  illegalCount : Nat
  draws : Nat
  cfg : Config
  asm : AsmState
  deriving DecidableEq, Repr

/-- Why a machine stops. -/
inductive Fault where
  /-- Raised by `raiseIllegal` alone, when the parameter `ILLEGAL_POLICY` says that the driver force-stops the machine at
  this `IllegalOpcode(op, page)` event (R600 of `60_exceptions.md`). Safe: the default policy never raises it. -/
  | illegalOpcode (op : Byte) (page : Page)
  /-- Raised by the fetch loop of R140 alone, under a custom opcode table whose prefix entries repeat for ever: the machine is
  stuck in one `Step` (R141 of `40_fetch_execute.md`; log 33). Safe: the loop runs at most twice with the default table. -/
  | prefixLoop
  deriving DecidableEq, Repr

/-- Why the model gives no answer. -/
inductive Refusal where
  /-- Raised by an arm of `exec` whose instruction has no meaning yet; no arm does. Safe. -/
  | notModelled (mnemonic : String)
  deriving DecidableEq, Repr

/-- No latch set (R40 of `10_state.md`, D7). -/
def Latches.clear : Latches := ⟨false, false, false, false⟩

/-- The encoder subsystem before any assembly run, with the values of R541 for the start of a pass (log 20). -/
def AsmState.initial (initialPc : Word) : AsmState where
  source := []
  cursor := 0
  passNo := 1
  programCounter := initialPc
  directPage := ⟨0, false⟩
  ended := false
  errorFlag := false
  labels := []
  blocks := []
  openBlock := ⟨initialPc, []⟩
  phase := .idle
  startAddress := none
  status := none

/-- Construction (R40, R640 of `70_reset_and_hazards.md`): run state Running, no latch, page 0, registers from `INIT`,
memory with nothing listed, no window. -/
def State.construct (cfg : Config) (init : Init) : State where
  a := init.a
  b := init.b
  x := init.x
  y := init.y
  u := init.u
  s := init.s
  pc := init.pc
  dp := init.dp
  cc := init.cc
  r1 := 0
  r2 := 0
  ea := 0
  cond := false
  op := 0
  page := .p0
  ntck := false
  run := .running
  latches := .clear
  mem := []
  windows := []
  nextHandle := 0
  deviceState := 0
  events := []
  illegalCount := 0
  draws := 0
  cfg := cfg
  asm := .initial cfg.asmInitialPc

/-- The machine right after reset: the default machine after the service of the reset latch (R612, R641). I and F are
set, PC is the word at the RESET vector, which reads 0x0000 in memory that nothing has written, and everything else is as
construction left it (log 1, log 2, log 3). -/
def State.reset : State := { State.construct defaultConfig defaultInit with pc := 0x0000, cc := 0x50 }

end Sys2Proof.Machine
end

