-- ==== Sys2Proof/Machine/Flags.lean ====
section
/-! DEFINITION. The condition-code register, the flag-update descriptor, and the arithmetic and logic of every ALU
primitive as functions of bytes and words (`41_alu_flag_unit.md`). -/

namespace Sys2Proof.Machine

/-- The flags of CC by letter (R26 of `10_state.md`). -/
inductive Flag where
  | C | V | Z | N | I | H | F | E
  deriving DecidableEq, Repr

/-- The bit number of a flag (R7 of `00_scope.md`, R26). -/
def Flag.bit : Flag → Nat
  | .C => 0
  | .V => 1
  | .Z => 2
  | .N => 3
  | .I => 4
  | .H => 5
  | .F => 6
  | .E => 7

/-- `flagCheck(letter)` (R28). -/
def flagOf (cc : Byte) (f : Flag) : Bool := cc.getLsbD f.bit

/-- A flag-update descriptor (R27): for each letter, clear, set, or absent (unchanged). -/
structure FlagUpdate where
  c : Option Bool := none
  v : Option Bool := none
  z : Option Bool := none
  n : Option Bool := none
  i : Option Bool := none
  h : Option Bool := none
  f : Option Bool := none
  e : Option Bool := none
  deriving DecidableEq, Repr

/-- What a descriptor says of one flag. -/
def FlagUpdate.get (d : FlagUpdate) : Flag → Option Bool
  | .C => d.c
  | .V => d.v
  | .Z => d.z
  | .N => d.n
  | .I => d.i
  | .H => d.h
  | .F => d.f
  | .E => d.e

/-- The new value of a flag under a descriptor. -/
def FlagUpdate.value (d : FlagUpdate) (cc : Byte) (f : Flag) : Bool := (d.get f).getD (flagOf cc f)

/-- `flags(descriptor)`: one write of CC (R27). -/
def FlagUpdate.apply (d : FlagUpdate) (cc : Byte) : Byte :=
  BitVec.ofBool (d.value cc .E) ++ BitVec.ofBool (d.value cc .F) ++ BitVec.ofBool (d.value cc .H) ++
    BitVec.ofBool (d.value cc .I) ++ BitVec.ofBool (d.value cc .N) ++ BitVec.ofBool (d.value cc .Z) ++
    BitVec.ofBool (d.value cc .V) ++ BitVec.ofBool (d.value cc .C)

/-! ### The laws for C, V, Z, N, H (R201 to R204) -/

/-- The Zero law (R203). -/
def isZero {w : Nat} (r : BitVec w) : Bool := r == 0

/-- The Overflow law of an addition (R202): operands of one sign, a result of the other. -/
def addOverflow {w : Nat} (a b r : BitVec w) : Bool := ((a ^^^ r) &&& (b ^^^ r)).msb

/-- The Overflow law of a subtraction (R202, C7 of `90_conflicts.md`). -/
def subOverflow {w : Nat} (a b r : BitVec w) : Bool := ((a ^^^ b) &&& (a ^^^ r)).msb

/-- The Half-carry law (R204): the sum of the low nibbles and the carry-in exceeds 15. -/
def halfCarry (a b : Byte) (cin : Bool) : Bool := a.toNat % 16 + b.toNat % 16 + cin.toNat > 15

/-- A result with the descriptor the primitive issues (R200). -/
structure Alu (w : Nat) where
  result : BitVec w
  update : FlagUpdate
  deriving DecidableEq, Repr

/-! ### Addition -/

/-- `adc8` (R206); `add8` (R205) is the same with no carry in. -/
def aluAdc8 (a b : Byte) (cin : Bool) : Alu 8 :=
  let t := a.toNat + b.toNat + cin.toNat
  let r := BitVec.ofNat 8 t
  ⟨r, { h := halfCarry a b cin, n := r.msb, z := isZero r, v := addOverflow a b r, c := decide (t > 255) }⟩

/-- `add8` (R205). -/
def aluAdd8 (a b : Byte) : Alu 8 := aluAdc8 a b false

/-- `add16` (R207). -/
def aluAdd16 (a b : Word) : Alu 16 :=
  let t := a.toNat + b.toNat
  let r := BitVec.ofNat 16 t
  ⟨r, { n := r.msb, z := isZero r, v := addOverflow a b r, c := decide (t > 65535) }⟩

/-! ### Subtraction: `h` is what happens to H (log 7) -/

/-- A subtraction of either width with borrow in: `t = a - b - bin` on integers, narrowed at the end (R208, R209, R210). -/
def aluSub {w : Nat} (a b : BitVec w) (bin : Bool) (h : Option Bool) : Alu w :=
  let t : Int := a.toNat - b.toNat - bin.toNat
  let r := BitVec.ofInt w t
  ⟨r, { h := h, n := r.msb, z := isZero r, v := subOverflow a b r, c := decide (t < 0) }⟩

/-- `sub8` (R208). -/
def aluSub8 (a b : Byte) (h : Option Bool) : Alu 8 := aluSub a b false h

/-- `sbc8` (R209). -/
def aluSbc8 (a b : Byte) (cin : Bool) (h : Option Bool) : Alu 8 := aluSub a b cin h

/-- `sub16` (R210). -/
def aluSub16 (a b : Word) (h : Option Bool) : Alu 16 := aluSub a b false h

/-- `neg8` (R216): the law of `sub8` with first operand 0. -/
def aluNeg8 (a : Byte) (h : Option Bool) : Alu 8 := aluSub 0 a false h

/-! ### Logic, test, clear -/

/-- The flag step of a logic, load or store: N and Z from the result, V cleared (R211 to R213, R226, R227). -/
def logicFlags {w : Nat} (r : BitVec w) : FlagUpdate := { n := r.msb, z := isZero r, v := false }

/-- `and8` (R211). -/
def aluAnd8 (a b : Byte) : Alu 8 := ⟨a &&& b, logicFlags (a &&& b)⟩

/-- `or8` (R212). -/
def aluOr8 (a b : Byte) : Alu 8 := ⟨a ||| b, logicFlags (a ||| b)⟩

/-- `eor8` (R213). -/
def aluEor8 (a b : Byte) : Alu 8 := ⟨a ^^^ b, logicFlags (a ^^^ b)⟩

/-- `com8` (R217): the one's complement; C set. -/
def aluCom8 (a : Byte) : Alu 8 := ⟨a ^^^ 0xFF, { logicFlags (a ^^^ 0xFF) with c := true }⟩

/-- `tst8` (R226). -/
def aluTst8 (a : Byte) : Alu 8 := ⟨a, logicFlags a⟩

/-- `tst16` (R227). -/
def aluTst16 (a : Word) : Alu 16 := ⟨a, logicFlags a⟩

/-- `clr8` (R228): descriptor "nZvc". -/
def aluClr8 : Alu 8 := ⟨0, { n := false, z := true, v := false, c := false }⟩

/-- `inc8` (R214): C is not written. -/
def aluInc8 (a : Byte) : Alu 8 :=
  let r := a + 1
  ⟨r, { n := r.msb, z := isZero r, v := decide (a = 0x7F) }⟩

/-- `dec8` (R215): C is not written. -/
def aluDec8 (a : Byte) : Alu 8 :=
  let r := a - 1
  ⟨r, { n := r.msb, z := isZero r, v := decide (a = 0x80) }⟩

/-! ### Shifts and rotates (one bit) -/

/-- `lsr8` (R218). -/
def aluLsr8 (a : Byte) (h : Option Bool) : Alu 8 :=
  let r := a >>> 1
  ⟨r, { h := h, n := false, z := isZero r, c := a.getLsbD 0 }⟩

/-- `ror8` (R219): the old carry enters bit 7. -/
def aluRor8 (a : Byte) (cin : Bool) : Alu 8 :=
  let r := BitVec.ofBool cin ++ a.extractLsb' 1 7
  ⟨r, { n := r.msb, z := isZero r, c := a.getLsbD 0 }⟩

/-- `asr8` (R220): bit 7 is kept. -/
def aluAsr8 (a : Byte) (h : Option Bool) : Alu 8 :=
  let r := a.sshiftRight 1
  ⟨r, { h := h, n := r.msb, z := isZero r, c := a.getLsbD 0 }⟩

/-- `lsl8` (R221). -/
def aluLsl8 (a : Byte) (h : Option Bool) : Alu 8 :=
  let r := a <<< 1
  ⟨r, { h := h, n := r.msb, z := isZero r, v := a.getLsbD 7 ^^ a.getLsbD 6, c := a.getLsbD 7 }⟩

/-- `rol8` (R222): the old carry enters bit 0. -/
def aluRol8 (a : Byte) (cin : Bool) : Alu 8 :=
  let r := a.extractLsb' 0 7 ++ BitVec.ofBool cin
  ⟨r, { n := r.msb, z := isZero r, v := a.getLsbD 7 ^^ a.getLsbD 6, c := a.getLsbD 7 }⟩

/-! ### Multiply, decimal adjust, sign extend -/

/-- `mul` (R223): unsigned 8 by 8 to 16; C is bit 7 of the low byte. -/
def aluMul (a b : Byte) : Alu 16 :=
  let r := BitVec.ofNat 16 (a.toNat * b.toNat)
  ⟨r, { z := isZero r, c := r.getLsbD 7 }⟩

/-- The correction `daa` adds (R225). -/
def daaCorrection (a : Byte) (h c : Bool) : Nat :=
  let lo := a.toNat % 16
  let hi := a.toNat / 16
  (if h ∨ lo > 9 then 0x06 else 0) + (if c ∨ hi > 9 ∨ (hi > 8 ∧ lo > 9) then 0x60 else 0)

/-- `daa` (R225): `v` is what happens to V (log 7). -/
def aluDaa (a : Byte) (h c : Bool) (v : Option Bool) : Alu 8 :=
  let t := a.toNat + daaCorrection a h c
  let r := BitVec.ofNat 8 t
  ⟨r, { v := v, n := r.msb, z := isZero r, c := c || decide (t > 255) }⟩

/-- SEX (R362 of `43_arithmetic.md`): D is B sign-extended. -/
def aluSex (b : Byte) : Alu 16 := ⟨sext16 b, { n := b.msb, z := isZero b }⟩

end Sys2Proof.Machine
end

