-- ==== Sys2Proof/Machine/Ops.lean ====
section
/-! DEFINITION. The named operations over memory and registers: peek, poke, fill, windows, byte order, stacks, the
register file, PC, the control primitives, taking an exception and returning from one. -/

namespace Sys2Proof.Machine

/-- The answer of a meaning or of a step. -/
abbrev Outcome := Host.Outcome State Fault Refusal

/-! ### Memory: a list of (address, byte) pairs in one canonical form -/

/-- Memory: addresses strictly rising, no entry equal to what an unlisted address reads as. -/
abbrev Memory := List Host.Cell

/-- What an unlisted address reads as. DESIGN CHOICE: R78 of `20_memory.md` leaves it unspecified; unsafe (log 3). -/
def Memory.unlisted : Byte := 0

/-- The byte at an address. -/
def Memory.read : Memory → Nat → Byte
  | [], _ => unlisted
  | (b, w) :: m, a => if a = b then w else Memory.read m a

/-- The list with one byte replaced, in canonical form: writing what an unlisted address reads as removes the entry. -/
def Memory.write (a : Nat) (v : Byte) : Memory → Memory
  | [] => if v = unlisted then [] else [(a, v)]
  | (b, w) :: m =>
    if a < b then (if v = unlisted then (b, w) :: m else (a, v) :: (b, w) :: m)
    else if a = b then (if v = unlisted then m else (a, v) :: m)
    else (b, w) :: Memory.write a v m

/-- The canonical form from a lower bound on. -/
def Memory.wfFrom (lo : Nat) : Memory → Bool
  | [] => true
  | (b, w) :: m => decide (lo ≤ b) && decide (w ≠ unlisted) && Memory.wfFrom (b + 1) m

/-- The canonical form. -/
def Memory.wf (m : Memory) : Bool := Memory.wfFrom 0 m

/-- Every listed address is below a bound. -/
def Memory.below (n : Nat) (m : Memory) : Bool := m.all fun c => decide (c.1 < n)

/-! ### The memory port (`20_memory.md`) -/

/-- `MEM_SIZE` (R5, D3). -/
def State.memSize (s : State) : Nat := 2 ^ s.cfg.memBits.val

/-- `addr AND MASK` (R61): every address is reduced modulo `MEM_SIZE`. -/
def State.mask (s : State) (addr : Word) : Nat := addr.toNat % s.memSize

/-- `peek(addr)` (R60): no side effect (R64). -/
def State.peek (s : State) (addr : Word) : Byte := Memory.read s.mem (s.mask addr)

/-- Emit one output event. -/
def State.emit (s : State) (e : Event) : State := { s with events := s.events ++ [e] }

/-- Whether a window covers a masked address (R68: the range is not wrapped). -/
def Window.covers (w : Window) (a : Nat) : Bool := decide (w.base ≤ a) && decide (a < w.base + w.length)

/-- The notifications of a store at a masked address, in registration order (R62, R68). -/
def State.notifications (s : State) (a : Nat) (v : Byte) : List Event :=
  (s.windows.filter (·.covers a)).map fun w => .windowUpdate w.owner a v

/-! ### What a store reaches: memory, and through `update` the window owners (R62, R68, R75) -/

/-- The latch of a kind (R34). -/
def Latches.get (l : Latches) : IntKind → Bool
  | .reset => l.reset
  | .nmi => l.nmi
  | .firq => l.firq
  | .irq => l.irq

/-- The latches with one of them set to a value. -/
def Latches.set (l : Latches) (k : IntKind) (v : Bool) : Latches :=
  match k with
  | .reset => { l with reset := v }
  | .nmi => { l with nmi := v }
  | .firq => { l with firq := v }
  | .irq => { l with irq := v }

/-- What a store can change: memory, the events, and, where a window belongs to a device, the latches and the state of the
devices (D39). -/
structure Bus where
  mem : Memory
  latches : Latches
  events : List Event
  deviceState : Nat
  deriving DecidableEq, Repr

/-- The bus of a state. -/
def State.bus (s : State) : Bus := ⟨s.mem, s.latches, s.events, s.deviceState⟩

/-- A state with another bus. -/
def State.withBus (s : State) (b : Bus) : State :=
  { s with mem := b.mem, latches := b.latches, events := b.events, deviceState := b.deviceState }

/-- Whether a rule of `DEVICES` answers an update in a device state. -/
def DeviceRule.answers (r : DeviceRule) (state owner a : Nat) (v : Byte) : Bool :=
  r.state == state && r.owner == owner && (r.address == none || r.address == some a) && (r.value == none || r.value == some v)

/-- One thing a device does (D39): set a latch, or store, which `store` carries out. -/
def Bus.act (store : Word → Byte → Bus → Bus) (b : Bus) : DeviceAction → Bus
  | .latch k => { b with latches := b.latches.set k true }
  | .poke addr v => store addr v b

/-- `owner.update(owner, address, value)` (R68): the event, and what the first rule of `DEVICES` that answers it does. -/
def Bus.update (cfg : Config) (store : Word → Byte → Bus → Bus) (a : Nat) (v : Byte) (b : Bus) (owner : Nat) : Bus :=
  let b := { b with events := b.events ++ [.windowUpdate owner a v] }
  match cfg.devices.find? fun r => DeviceRule.answers r b.deviceState owner a v with
  | none => b
  | some r => r.actions.foldl (Bus.act store) { b with deviceState := r.next }

/-- The owners of the windows that cover a masked address, in registration order (R62, R68). -/
def ownersAt (windows : List Window) (a : Nat) : List Nat := (windows.filter (·.covers a)).map (·.owner)

/-- `poke` on a bus at an address already masked (R62): the store, then each owner's update, synchronous, in registration
order. A device's own store notifies in turn, as deep as `deviceNesting` allows; past it, owners are told and do nothing
(log 31). -/
def Bus.poke (cfg : Config) (windows : List Window) : Nat → Nat → Byte → Bus → Bus
  | 0, a, v, b => (ownersAt windows a).foldl (fun b o => { b with events := b.events ++ [.windowUpdate o a v] })
      { b with mem := Memory.write a v b.mem }
  | d + 1, a, v, b => (ownersAt windows a).foldl
      (Bus.update cfg (fun addr w b => Bus.poke cfg windows d (addr.toNat % 2 ^ cfg.memBits.val) w b) a v)
      { b with mem := Memory.write a v b.mem }

/-- `poke(addr, byte)` (R62): store, then notify the matching windows. -/
def State.poke (s : State) (addr : Word) (v : Byte) : State :=
  s.withBus (Bus.poke s.cfg s.windows s.cfg.deviceNesting (s.mask addr) v s.bus)

/-- No registered window belongs to a device: a store changes memory and tells observers, nothing more. -/
def State.deviceFree (s : State) : Bool :=
  s.windows.all fun w => s.cfg.devices.all fun r => r.owner != w.owner

/-- The loop of `fill` (R63) from an address already reduced: stops early, without error, past the top. -/
def State.fillFrom (s : State) (a : Nat) : List Byte → State × Nat
  | [] => (s, a)
  | v :: vs => if a ≥ s.memSize then (s, a) else (s.poke (BitVec.ofNat 16 a) v).fillFrom (a + 1) vs

/-- `fill(addr, bytes)` (R63): the new state and the last address used plus one. -/
def State.fill (s : State) (addr : Word) (vs : List Byte) : State × Nat := s.fillFrom (s.mask addr) vs

/-- `addWindow(owner, base, len)` (R67): appended; the handle is a number never used before (log 15). -/
def State.addWindow (s : State) (owner base len : Nat) : State × Nat :=
  ({ s with windows := s.windows ++ [⟨s.nextHandle, base, len, owner⟩], nextHandle := s.nextHandle + 1 }, s.nextHandle)

/-- `removeWindow(handle)` (R67). -/
def State.removeWindowHandle (s : State) (handle : Nat) : State :=
  { s with windows := s.windows.eraseP fun w => w.handle == handle }

/-- `removeWindow(base, len)` (R67): the first matching window (log 15). -/
def State.removeWindowRange (s : State) (base len : Nat) : State :=
  { s with windows := s.windows.eraseP fun w => w.base == base && w.length == len }

/-- `MemRead(addr, 2)` (R65): big-endian, the high byte at `addr`. `MemRead(addr, 1)` is `peek`. -/
def State.memRead16 (s : State) (addr : Word) : Word := wordOf (s.peek addr) (s.peek (addr + 1))

/-- `MemWrite(addr, 2, v)` (R65): the high byte first. `MemWrite(addr, 1, v)` is `poke`. -/
def State.memWrite16 (s : State) (addr v : Word) : State := (s.poke addr (hiByte v)).poke (addr + 1) (loByte v)

/-! ### The register file (`10_state.md`) -/

/-- A write of PC, which emits `PcNotify` (R24, R36; log 13). -/
def State.setPc (s : State) (v : Word) : State := { s with pc := v, events := s.events ++ [.pcNotify v] }

/-- A read of a register as a 16-bit pattern; D is A:B (R20, R23, R159). -/
def State.reg (s : State) : Reg → Word
  | .A => zext16 s.a
  | .B => zext16 s.b
  | .D => wordOf s.a s.b
  | .X => s.x
  | .Y => s.y
  | .U => s.u
  | .S => s.s
  | .PC => s.pc
  | .DP => zext16 s.dp
  | .CC => zext16 s.cc

/-- A masked write of a register (R21, R160); a write of D writes A and B (R23). -/
def State.setReg (s : State) (r : Reg) (v : Word) : State :=
  match r with
  | .A => { s with a := loByte v }
  | .B => { s with b := loByte v }
  | .D => { s with a := hiByte v, b := loByte v }
  | .X => { s with x := v }
  | .Y => { s with y := v }
  | .U => { s with u := v }
  | .S => { s with s := v }
  | .PC => s.setPc v
  | .DP => { s with dp := loByte v }
  | .CC => { s with cc := loByte v }

/-- `CC.f` (R8, R28). -/
def State.flag (s : State) (f : Flag) : Bool := flagOf s.cc f

/-- `flags(descriptor)` (R27). -/
def State.flags (s : State) (d : FlagUpdate) : State := { s with cc := d.apply s.cc }

/-- The instruction-stream bytes the fetches consume: PC advances by one for each (R24, R150, R151). -/
def State.advance (s : State) : Nat → State
  | 0 => s
  | n + 1 => (s.setPc (s.pc + 1)).advance n

/-! ### Transfer primitives (R159 to R164 of `40_fetch_execute.md`) -/

/-- `ld1 <reg>` (R159). -/
def State.ld1 (s : State) (r : Reg) : State := { s with r1 := s.reg r }

/-- `ld2 <reg>` (R159). -/
def State.ld2 (s : State) (r : Reg) : State := { s with r2 := s.reg r }

/-- `st1 <reg>` (R160). -/
def State.st1 (s : State) (r : Reg) : State := s.setReg r s.r1

/-- `st2 <reg>` (R160). -/
def State.st2 (s : State) (r : Reg) : State := s.setReg r s.r2

/-- `ftch8` into `r1` (R161): loads, tests and read-modify-writes. -/
def State.ftch8r1 (s : State) : State := { s with r1 := zext16 (s.peek s.ea) }

/-- `ftch8` into `r2` (R161): the operand of a two-operand operation. -/
def State.ftch8r2 (s : State) : State := { s with r2 := zext16 (s.peek s.ea) }

/-- `ftch16` into `r1` (R162). -/
def State.ftch16r1 (s : State) : State := { s with r1 := s.memRead16 s.ea }

/-- `ftch16` into `r2` (R162). -/
def State.ftch16r2 (s : State) : State := { s with r2 := s.memRead16 s.ea }

/-- `stor8` (R163). -/
def State.stor8 (s : State) : State := s.poke s.ea (loByte s.r1)

/-- `stor16` (R164). -/
def State.stor16 (s : State) : State := s.memWrite16 s.ea s.r1

/-! ### Control primitives (R166 to R171) -/

/-- The test of `chk` (R166). -/
def ChkCond.holds (c : ChkCond) (s : State) : Bool :=
  match c with
  | .Z => s.flag .Z
  | .C => s.flag .C
  | .N => s.flag .N
  | .V => s.flag .V
  | .LS => s.flag .C || s.flag .Z
  | .LT => s.flag .V ^^ s.flag .N
  | .LE => s.flag .Z || (s.flag .V ^^ s.flag .N)

/-- `chk <cond>` (R166). -/
def State.chk (s : State) (c : ChkCond) : State := { s with cond := c.holds s }

/-- `qt` (R167): the program ends here when the condition is met. -/
def State.qt (s : State) (k : State → State) : State := if s.cond then s else k s

/-- `qf` (R167): the program ends here when the condition is not met. -/
def State.qf (s : State) (k : State → State) : State := if s.cond then k s else s

/-- `pc <- EA; ntck` (R8, R169). -/
def State.jump (s : State) : State := { s.setPc s.ea with ntck := true }

/-- `page` (R168): the prefix byte becomes the page of the repeated fetch. -/
def State.recordPage (s : State) (p : Page) : State := { s with page := p }

/-- `sync` (R170). -/
def State.sync (s : State) : State := { s with run := .syncing }

/-- `wait` (R171). -/
def State.wait (s : State) : State := { s with run := .waiting }

/-- `rel8` (R154): PC already past the offset byte. -/
def State.rel8 (s : State) (o : Byte) : State := { s with ea := s.pc + sext16 o }

/-- `rel16` (R155). -/
def State.rel16 (s : State) (o : Word) : State := { s with ea := s.pc + o }

/-! ### Stacks (R66 of `20_memory.md`, R474 of `46_stack_system.md`) -/

/-- The two stack pointers. -/
inductive Stack where
  | S | U
  deriving DecidableEq, Repr

/-- The register of a stack. -/
def Stack.reg : Stack → Reg
  | .S => .S
  | .U => .U

/-- The other stack (R474, D37). -/
def Stack.other : Stack → Stack
  | .S => .U
  | .U => .S

/-- `Push8(sp, v)` (R66). -/
def State.push8 (s : State) (sp : Stack) (v : Byte) : State :=
  let p := s.reg sp.reg - 1
  (s.setReg sp.reg p).poke p v

/-- `Push16(sp, v)` (R66): the low byte first, so the word lies big-endian. -/
def State.push16 (s : State) (sp : Stack) (v : Word) : State := (s.push8 sp (loByte v)).push8 sp (hiByte v)

/-- `Pull8(sp)` (R66): the byte, and the state with the pointer moved. -/
def State.pull8 (s : State) (sp : Stack) : Byte × State :=
  (s.peek (s.reg sp.reg), s.setReg sp.reg (s.reg sp.reg + 1))

/-- `Pull16(sp)` (R66). -/
def State.pull16 (s : State) (sp : Stack) : Word × State :=
  let (hi, s1) := s.pull8 sp
  let (lo, s2) := s1.pull8 sp
  (wordOf hi lo, s2)

/-- Push one register at its own width. -/
def State.pushReg (s : State) (sp : Stack) (r : Reg) : State :=
  match r with
  | .A | .B | .DP | .CC => s.push8 sp (loByte (s.reg r))
  | .D | .X | .Y | .U | .S | .PC => s.push16 sp (s.reg r)

/-- Pull one register at its own width. -/
def State.pullReg (s : State) (sp : Stack) (r : Reg) : State :=
  match r with
  | .A | .B | .DP | .CC => let (v, s') := s.pull8 sp; s'.setReg r (zext16 v)
  | .D | .X | .Y | .U | .S | .PC => let (v, s') := s.pull16 sp; s'.setReg r v

/-- The registers of a list postbyte, bit 0 first (R102 of `30_encoding.md`, R474): bit 6 is the other stack pointer. -/
def listRegs (sp : Stack) : List (Nat × Reg) :=
  [(0, .CC), (1, .A), (2, .B), (3, .DP), (4, .X), (5, .Y), (6, sp.other.reg), (7, .PC)]

/-- The registers a postbyte selects, in the order they are pulled. -/
def selectedRegs (sp : Stack) (pb : Byte) : List Reg :=
  ((listRegs sp).filter fun e => pb.getLsbD e.1).map (·.2)

/-- `PushList(sp, other, pb)` (R474): bit 7 first, bit 0 last. -/
def State.pushList (s : State) (sp : Stack) (pb : Byte) : State :=
  (selectedRegs sp pb).reverse.foldl (fun s r => s.pushReg sp r) s

/-- `PullList(sp, other, pb)` (R474): bit 0 first, bit 7 last; `ntck` after PC. -/
def State.pullList (s : State) (sp : Stack) (pb : Byte) : State :=
  let s' := (selectedRegs sp pb).foldl (fun s r => s.pullReg sp r) s
  if pb.getLsbD 7 then { s' with ntck := true } else s'

/-! ### Taking an exception (`60_exceptions.md`) -/

/-- Push the frame of an entry on S: E tells the frame's size (R610, R612, R614). -/
def State.pushFrame (s : State) : Stacking → State
  | .none => s
  | .pcAndCc => ((s.flags { e := false }).pushReg .S .PC).pushReg .S .CC
  | .entire => (s.flags { e := true }).pushList .S 0xFF

/-- Set the masks of an entry, after the push: I and F as the vector says (R601, R610). -/
def State.setMasks (s : State) (i f : Bool) : State :=
  s.flags { i := if i then some true else none, f := if f then some true else none }

/-- THE entry into a handler, shared by the interrupts, the software interrupts and reset (R610, R612, R614): push the
frame, set the masks, load PC from the vector. -/
def State.enter (s : State) (frame : Stacking) (i f : Bool) (vector : Word) : State :=
  let s1 := (s.pushFrame frame).setMasks i f
  s1.setPc (s1.memRead16 vector)

/-- The `swi` primitive (R172, R614): the entire state, then the vector; `ntck`. -/
def State.swi (s : State) (masks : Bool) (vector : Word) : State := { s.enter .entire masks masks vector with ntck := true }

/-- The `rti` primitive (R173, R616): CC first, then by the E bit just restored the full set or only PC; `ntck`. -/
def State.rti (s : State) : State :=
  let s1 := s.pullReg .S .CC
  let s2 := if s1.flag .E then [Reg.A, .B, .DP, .X, .Y, .U].foldl (fun s r => s.pullReg .S r) s1 else s1
  { s2.pullReg .S .PC with ntck := true }

/-- Any latch true (R607). -/
def Latches.any (l : Latches) : Bool := l.reset || l.nmi || l.firq || l.irq

/-- `VECTORS[kind]` (R611). -/
def IntKind.vector (k : IntKind) (v : Vectors) : Word :=
  match k with
  | .reset => v.reset
  | .nmi => v.nmi
  | .firq => v.firq
  | .irq => v.irq

/-- The frame each kind pushes (R601, R610, R612). NMI, FIRQ and IRQ push nothing out of a CWAI that pushed already
(R608, D14). DESIGN CHOICE: RESET pushes what `RESET_STACKING` says out of such a CWAI too, by the steps of R612 (log 35). -/
def State.frameOf (s : State) : IntKind → Stacking
  | .reset => s.cfg.resetStacking
  | .nmi | .irq => if s.run = .waiting ∧ s.cfg.cwaiPrestack then .none else .entire
  | .firq => if s.run = .waiting ∧ s.cfg.cwaiPrestack then .none else .pcAndCc

/-- Whether the entry of a kind sets F; every entry sets I (R601). -/
def IntKind.setsF : IntKind → Bool
  | .irq => false
  | .reset | .nmi | .firq => true

/-- `Service(kind)` (R610, R612): the entry, the latch cleared, the run state Running. -/
def State.service (s : State) (k : IntKind) : State :=
  let s1 := if k = .reset ∧ s.cfg.resetClearsDp then { s.enter (s.frameOf k) true k.setsF (k.vector s.cfg.vectors) with dp := 0 }
    else s.enter (s.frameOf k) true k.setsF (k.vector s.cfg.vectors)
  { s1 with latches := s1.latches.set k false, run := .running }

/-- The interrupt the controller accepts: strict priority, two mask conditions (R606). -/
def State.accepted (s : State) : Option IntKind :=
  if s.latches.reset then some .reset
  else if s.latches.nmi then some .nmi
  else if s.latches.firq ∧ ¬ s.flag .F then some .firq
  else if s.latches.irq ∧ ¬ s.flag .I then some .irq
  else none

/-- `CheckInterrupts` (R606, R607): any latch ends Syncing; at most one service. -/
def State.checkInterrupts (s : State) : State :=
  let s1 := if s.run = .syncing ∧ s.latches.any then { s with run := .running } else s
  match s1.accepted with
  | some k => s1.service k
  | none => s1

/-- `Latch(kind)` (R604). -/
def State.latch (s : State) (k : IntKind) : State := { s with latches := s.latches.set k true }

/-- `Stop` (R147). -/
def State.stop (s : State) : State := { s with run := .running }

/-- Whether the driver force-stops the machine at the `n`-th event (R600). -/
def policyHalts : IllegalPolicy → Nat → Bool
  | .proceed, _ => false
  | .haltAfter k, n => decide (k ≤ n)

/-- `raise IllegalOpcode(op, page)` (R600): the event, page 0, the driver's count, and nothing else; a fault only when
`ILLEGAL_POLICY` force-stops the machine (log 8). -/
def State.raiseIllegal (s : State) : Outcome :=
  if policyHalts s.cfg.illegalPolicy (s.illegalCount + 1) then .fault (.illegalOpcode s.op s.page)
  else .next { s.emit (.illegalOpcode s.op s.page) with page := .p0, illegalCount := s.illegalCount + 1 }

end Sys2Proof.Machine
end

