-- ==== Sys2Proof/Machine/Alu.lean ====
section
/-! DEFINITION. The ALU primitives as operations of the machine: operands from `r1` and `r2`, the result into `r1`, one
flag-update descriptor (R200 of `41_alu_flag_unit.md`). -/

namespace Sys2Proof.Machine

/-- The first operand as a byte: bits 7:0 of `r1` (R30, R200). -/
def State.a8 (s : State) : Byte := loByte s.r1

/-- The second operand as a byte: bits 7:0 of `r2`. -/
def State.b8 (s : State) : Byte := loByte s.r2

/-- An 8-bit primitive's result and descriptor (R200: bits 15:8 of `r1` are zero). -/
def State.put8 (s : State) (r : Alu 8) : State := { s with r1 := zext16 r.result, cc := r.update.apply s.cc }

/-- A 16-bit primitive's result and descriptor. -/
def State.put16 (s : State) (r : Alu 16) : State := { s with r1 := r.result, cc := r.update.apply s.cc }

/-- What happens to a flag of U8: absent from the descriptor (R204, R245), or a free value (log 7, log 28). -/
def State.undefinedFlag (s : State) : Option Bool :=
  match s.cfg.undefinedFlags with
  | .unchanged => none
  | .anyValue => some (Config.freeFlag s.draws)

/-- The draw counter after a primitive that leaves such a flag. -/
def State.drawn (s : State) : State :=
  match s.cfg.undefinedFlags with
  | .unchanged => s
  | .anyValue => { s with draws := s.draws + 1 }

def State.add8 (s : State) : State := s.put8 (aluAdd8 s.a8 s.b8)
def State.adc8 (s : State) : State := s.put8 (aluAdc8 s.a8 s.b8 (s.flag .C))
def State.add16 (s : State) : State := s.put16 (aluAdd16 s.r1 s.r2)
def State.sub8 (s : State) : State := (s.put8 (aluSub8 s.a8 s.b8 s.undefinedFlag)).drawn
def State.sbc8 (s : State) : State := (s.put8 (aluSbc8 s.a8 s.b8 (s.flag .C) s.undefinedFlag)).drawn
def State.sub16 (s : State) : State := (s.put16 (aluSub16 s.r1 s.r2 s.undefinedFlag)).drawn
def State.neg8 (s : State) : State := (s.put8 (aluNeg8 s.a8 s.undefinedFlag)).drawn
def State.and8 (s : State) : State := s.put8 (aluAnd8 s.a8 s.b8)
def State.or8 (s : State) : State := s.put8 (aluOr8 s.a8 s.b8)
def State.eor8 (s : State) : State := s.put8 (aluEor8 s.a8 s.b8)
def State.com8 (s : State) : State := s.put8 (aluCom8 s.a8)
def State.inc8 (s : State) : State := s.put8 (aluInc8 s.a8)
def State.dec8 (s : State) : State := s.put8 (aluDec8 s.a8)
def State.tst8 (s : State) : State := s.put8 (aluTst8 s.a8)
def State.tst16 (s : State) : State := s.put16 (aluTst16 s.r1)
def State.clr8 (s : State) : State := s.put8 aluClr8
def State.lsr8 (s : State) : State := (s.put8 (aluLsr8 s.a8 s.undefinedFlag)).drawn
def State.ror8 (s : State) : State := s.put8 (aluRor8 s.a8 (s.flag .C))
def State.asr8 (s : State) : State := (s.put8 (aluAsr8 s.a8 s.undefinedFlag)).drawn
def State.lsl8 (s : State) : State := (s.put8 (aluLsl8 s.a8 s.undefinedFlag)).drawn
def State.rol8 (s : State) : State := s.put8 (aluRol8 s.a8 (s.flag .C))

/-- `mul` (R223): the operands are A and B, the result goes to D; `r2` stays, for no rule writes it (R143, R200; log 32). -/
def State.mul (s : State) : State := (s.put16 (aluMul s.a s.b)).st1 .D

/-- `abx` (R224): B is added unsigned, no flag changes; `r2` stays, as for `mul`. -/
def State.abx (s : State) : State := { s with r1 := s.x + zext16 s.b }.st1 .X

/-- `daa` (R225): on A, with the old H and C. -/
def State.daa (s : State) : State :=
  (((s.ld1 .A).put8 (aluDaa s.a (s.flag .H) (s.flag .C) s.undefinedFlag)).st1 .A).drawn

end Sys2Proof.Machine
end

