-- ==== Sys2Proof/WellFormed.lean ====
section
/-! DEFINITION. Which instructions are well formed: those with no undefined postbyte code (R119 of `30_encoding.md`). -/

namespace Sys2Proof

/-- A sub-mode is well formed when its code is one of the thirteen that R98 defines. -/
def IdxMode.wf : IdxMode → Bool
  | .undefined _ => false
  | _ => true

/-- The 5-bit form is always well formed; a sub-mode must be defined. -/
def Index.wf : Index → Bool
  | .off5 _ _ => true
  | .mode _ _ m => m.wf

def MemOp.wf : MemOp → Bool
  | .dir _ => true
  | .ext _ => true
  | .idx ix => ix.wf

def Src8.wf : Src8 → Bool
  | .imm _ => true
  | .mem m => m.wf

def Src16.wf : Src16 → Bool
  | .imm _ => true
  | .mem m => m.wf

/-- A register-pair half is well formed when its code names a register (R101). -/
def PairReg.wf : PairReg → Bool
  | .reg _ => true
  | .undefined _ => false

/-- An instruction is well formed when its operand holds no undefined code (R119). -/
def Instr.wf : Instr → Bool
  | .lda src => src.wf
  | .ldb src => src.wf
  | .ldd src => src.wf
  | .ldx src => src.wf
  | .ldy src => src.wf
  | .ldu src => src.wf
  | .lds src => src.wf
  | .sta m => m.wf
  | .stb m => m.wf
  | .std m => m.wf
  | .stx m => m.wf
  | .sty m => m.wf
  | .stu m => m.wf
  | .sts m => m.wf
  | .leax ix => ix.wf
  | .leay ix => ix.wf
  | .leas ix => ix.wf
  | .leau ix => ix.wf
  | .tfr src dst => src.wf && dst.wf
  | .exg src dst => src.wf && dst.wf
  | .adda src => src.wf
  | .addb src => src.wf
  | .adca src => src.wf
  | .adcb src => src.wf
  | .addd src => src.wf
  | .suba src => src.wf
  | .subb src => src.wf
  | .sbca src => src.wf
  | .sbcb src => src.wf
  | .subd src => src.wf
  | .cmpa src => src.wf
  | .cmpb src => src.wf
  | .cmpd src => src.wf
  | .cmpx src => src.wf
  | .cmpy src => src.wf
  | .cmpu src => src.wf
  | .cmps src => src.wf
  | .neg m => m.wf
  | .nega => true
  | .negb => true
  | .inc m => m.wf
  | .inca => true
  | .incb => true
  | .dec m => m.wf
  | .deca => true
  | .decb => true
  | .tst m => m.wf
  | .tsta => true
  | .tstb => true
  | .clr m => m.wf
  | .clra => true
  | .clrb => true
  | .mul => true
  | .daa => true
  | .sex => true
  | .abx => true
  | .anda src => src.wf
  | .andb src => src.wf
  | .ora src => src.wf
  | .orb src => src.wf
  | .eora src => src.wf
  | .eorb src => src.wf
  | .bita src => src.wf
  | .bitb src => src.wf
  | .com m => m.wf
  | .coma => true
  | .comb => true
  | .lsr m => m.wf
  | .lsra => true
  | .lsrb => true
  | .ror m => m.wf
  | .rora => true
  | .rorb => true
  | .asr m => m.wf
  | .asra => true
  | .asrb => true
  | .lsl m => m.wf
  | .lsla => true
  | .lslb => true
  | .rol m => m.wf
  | .rola => true
  | .rolb => true
  | .andcc _ => true
  | .orcc _ => true
  | .bra _ => true
  | .brn _ => true
  | .bhi _ => true
  | .bls _ => true
  | .bcc _ => true
  | .bcs _ => true
  | .bne _ => true
  | .beq _ => true
  | .bvc _ => true
  | .bvs _ => true
  | .bpl _ => true
  | .bmi _ => true
  | .bge _ => true
  | .blt _ => true
  | .bgt _ => true
  | .ble _ => true
  | .lbra _ => true
  | .lbrn _ => true
  | .lbhi _ => true
  | .lbls _ => true
  | .lbcc _ => true
  | .lbcs _ => true
  | .lbne _ => true
  | .lbeq _ => true
  | .lbvc _ => true
  | .lbvs _ => true
  | .lbpl _ => true
  | .lbmi _ => true
  | .lbge _ => true
  | .lblt _ => true
  | .lbgt _ => true
  | .lble _ => true
  | .bsr _ => true
  | .lbsr _ => true
  | .jsr m => m.wf
  | .rts => true
  | .jmp m => m.wf
  | .pshs _ => true
  | .puls _ => true
  | .pshu _ => true
  | .pulu _ => true
  | .swi => true
  | .swi2 => true
  | .swi3 => true
  | .rti => true
  | .cwai _ => true
  | .sync => true
  | .nop => true
  | .prefix10 => true
  | .prefix11 => true

end Sys2Proof
end

