-- ==== Sys2Proof/Machine/Operands.lean ====
section
/-! DEFINITION. Operand resolution: every operand form of the instructions (R260 of `42_load_store_transfer.md`, R152 to
R156 and R165 of `40_fetch_execute.md`). All operand bytes have been fetched: PC is the next instruction's address. -/

namespace Sys2Proof.Machine

/-- The register of an indexed operand's base (R97 of `30_encoding.md`). -/
def baseReg : IdxReg → Reg
  | .X => .X
  | .Y => .Y
  | .U => .U
  | .S => .S

/-- The effective address of a sub-mode before indirection, and the base register's update (R156); nothing for an
undefined code (R119). -/
def State.formEA (s : State) (r : Reg) : IdxMode → Option State
  | .inc1 => some { (s.setReg r (s.reg r + 1)) with ea := s.reg r }
  | .inc2 => some { (s.setReg r (s.reg r + 2)) with ea := s.reg r }
  | .dec1 => some { (s.setReg r (s.reg r - 1)) with ea := s.reg r - 1 }
  | .dec2 => some { (s.setReg r (s.reg r - 2)) with ea := s.reg r - 2 }
  | .zero => some { s with ea := s.reg r }
  | .accB => some { s with ea := s.reg r + sext16 s.b }
  | .accA => some { s with ea := s.reg r + sext16 s.a }
  | .off8 n => some { s with ea := s.reg r + sext16 n }
  | .off16 n => some { s with ea := s.reg r + n }
  | .accD => some { s with ea := s.reg r + s.reg .D }
  | .pcr8 n => some { s with ea := s.pc + sext16 n }
  | .pcr16 n => some { s with ea := s.pc + n }
  | .abs w => some { s with ea := w }
  | .undefined _ => none

/-- `indx` (R156): form EA, then one 16-bit indirection when the indirect bit is set. -/
def State.indx (s : State) : Index → Option State
  | .off5 r n => some { s with ea := s.reg (baseReg r) + sext5 n }
  | .mode r indirect m =>
    (s.formEA (baseReg r) m).map fun t => if indirect then { t with ea := t.memRead16 t.ea } else t

/-- `ResolveEA(format)` (R260): `drct`, `xtnd` or `indx` (R152, R153, R156). -/
def State.resolveEA (s : State) : MemOp → Option State
  | .dir lo => some { s with ea := wordOf s.dp lo }
  | .ext addr => some { s with ea := addr }
  | .idx ix => s.indx ix

/-- `Operand8(format)` into `r1` (R260, R150, R161). -/
def State.operand8r1 (s : State) : Src8 → Option State
  | .imm v => some { s with r1 := zext16 v }
  | .mem m => (s.resolveEA m).map State.ftch8r1

/-- `Operand8(format)` into `r2`. -/
def State.operand8r2 (s : State) : Src8 → Option State
  | .imm v => some { s with r2 := zext16 v }
  | .mem m => (s.resolveEA m).map State.ftch8r2

/-- `Operand16(format)` into `r1` (R260, R151, R162). -/
def State.operand16r1 (s : State) : Src16 → Option State
  | .imm v => some { s with r1 := v }
  | .mem m => (s.resolveEA m).map State.ftch16r1

/-- `Operand16(format)` into `r2`. -/
def State.operand16r2 (s : State) : Src16 → Option State
  | .imm v => some { s with r2 := v }
  | .mem m => (s.resolveEA m).map State.ftch16r2

/-- Whether an operand increments its base register: `,R+` and `,R++`, indirect or not (R98 of `30_encoding.md`). -/
def autoIncrement : Src16 → Bool
  | .mem (.idx (.mode _ _ .inc1)) | .mem (.idx (.mode _ _ .inc2)) => true
  | .imm _ | .mem _ => false

/-- Run the rest of a microcode program after its operand is resolved; an undefined postbyte code raises
`IllegalOpcode` and nothing else happens (R119, R600). -/
def State.orIllegal (s : State) (resolved : Option State) (k : State → State) : Outcome :=
  match resolved with
  | some t => .next (k t)
  | none => s.raiseIllegal

/-- `RegOf` (R165, R101). -/
def regOf : PairReg → Option Reg
  | .reg r => some r
  | .undefined _ => none

end Sys2Proof.Machine
end

