-- ==== Sys2Proof/Machine/Arithmetic.lean ====
section
/-! DEFINITION. Arithmetic: add, subtract, compare, single-operand arithmetic, MUL, DAA, SEX, ABX (`43_arithmetic.md`). -/

namespace Sys2Proof.Machine

/-! ### Shared operations, used by `44_logic_shift.md` as well -/

/-- A two-operand operation on an accumulator: `b <- Operand8(format); r1 <- x[r]; r2 <- b; <op>; x[r] <- r1` (R300). -/
def binary8 (op : State → State) (r : Reg) (src : Src8) (s : State) : Outcome :=
  s.orIllegal (s.operand8r2 src) fun t => (op (t.ld1 r)).st1 r

/-- The same without the last write: a compare or a bit test (R320, R376). -/
def test8 (op : State → State) (r : Reg) (src : Src8) (s : State) : Outcome :=
  s.orIllegal (s.operand8r2 src) fun t => op (t.ld1 r)

/-- The 16-bit two-operand operation (R304). -/
def binary16 (op : State → State) (r : Reg) (src : Src16) (s : State) : Outcome :=
  s.orIllegal (s.operand16r2 src) fun t => (op (t.ld1 r)).st1 r

/-- The 16-bit compare (R322). The register is read after the operand is resolved, so a compare of Y, U or S with its own
auto-incremented operand compares the updated register (R324 to R326, D20; log 10). -/
def test16 (op : State → State) (r : Reg) (src : Src16) (s : State) : Outcome :=
  s.orIllegal (s.operand16r2 src) fun t => op (t.ld1 r)

/-- The 16-bit compare of the register's value of before the operand is resolved (R323). -/
def test16Old (op : State → State) (r : Reg) (src : Src16) (s : State) : Outcome :=
  s.orIllegal (s.operand16r2 src) fun t => op { t with r1 := s.reg r }

/-- The register form of a single-operand operation: `r1 <- x[r]; <op>; x[r] <- r1` (R329). -/
def unaryReg (op : State → State) (r : Reg) (s : State) : Outcome := .next ((op (s.ld1 r)).st1 r)

/-- The memory form: `ResolveEA(format); r1 <- MemRead(EA, 1); <op>; MemWrite(EA, 1, r1)` (R329). -/
def readModifyWrite (op : State → State) (m : MemOp) (s : State) : Outcome :=
  s.orIllegal (s.resolveEA m) fun t => (op t.ftch8r1).stor8

/-! ### The instructions -/

/-- ADDA (R300): `add8` on A. -/
def execAdda (src : Src8) (s : State) : Outcome := binary8 State.add8 .A src s

/-- ADDB (R301): `add8` on B. -/
def execAddb (src : Src8) (s : State) : Outcome := binary8 State.add8 .B src s

/-- ADCA (R302): `adc8` on A. -/
def execAdca (src : Src8) (s : State) : Outcome := binary8 State.adc8 .A src s

/-- ADCB (R303): `adc8` on B. -/
def execAdcb (src : Src8) (s : State) : Outcome := binary8 State.adc8 .B src s

/-- ADDD (R304): `add16` on D. -/
def execAddd (src : Src16) (s : State) : Outcome := binary16 State.add16 .D src s

/-- SUBA (R305): `sub8` on A. -/
def execSuba (src : Src8) (s : State) : Outcome := binary8 State.sub8 .A src s

/-- SUBB (R306): `sub8` on B. -/
def execSubb (src : Src8) (s : State) : Outcome := binary8 State.sub8 .B src s

/-- SBCA (R307): `sbc8` on A. -/
def execSbca (src : Src8) (s : State) : Outcome := binary8 State.sbc8 .A src s

/-- SBCB (R308): `sbc8` on B. -/
def execSbcb (src : Src8) (s : State) : Outcome := binary8 State.sbc8 .B src s

/-- SUBD (R309): `sub16` on D. -/
def execSubd (src : Src16) (s : State) : Outcome := binary16 State.sub16 .D src s

/-- CMPA (R320): the flags of A - operand. -/
def execCmpa (src : Src8) (s : State) : Outcome := test8 State.sub8 .A src s

/-- CMPB (R321): the flags of B - operand. -/
def execCmpb (src : Src8) (s : State) : Outcome := test8 State.sub8 .B src s

/-- CMPD (R322): the flags of D - operand. -/
def execCmpd (src : Src16) (s : State) : Outcome := test16 State.sub16 .D src s

/-- CMPX (R323): the flags of X - operand. With an auto-increment "`CMPX ,X++` compares the old X with the word at the old X and
leaves X + 2"; every other operand, an auto-decrement among them, follows the steps of the rule (log 10). -/
def execCmpx (src : Src16) (s : State) : Outcome :=
  if autoIncrement src then test16Old State.sub16 .X src s else test16 State.sub16 .X src s

/-- CMPY (R324): the flags of Y - operand. -/
def execCmpy (src : Src16) (s : State) : Outcome := test16 State.sub16 .Y src s

/-- CMPU (R325): the flags of U - operand. -/
def execCmpu (src : Src16) (s : State) : Outcome := test16 State.sub16 .U src s

/-- CMPS (R326): the flags of S - operand. -/
def execCmps (src : Src16) (s : State) : Outcome := test16 State.sub16 .S src s

/-- NEG (R330): `neg8` on a memory byte. -/
def execNeg (m : MemOp) (s : State) : Outcome := readModifyWrite State.neg8 m s

/-- NEGA (R331): `neg8` on A. -/
def execNega (s : State) : Outcome := unaryReg State.neg8 .A s

/-- NEGB (R332): `neg8` on B. -/
def execNegb (s : State) : Outcome := unaryReg State.neg8 .B s

/-- INC (R333): `inc8` on a memory byte. -/
def execInc (m : MemOp) (s : State) : Outcome := readModifyWrite State.inc8 m s

/-- INCA (R334): `inc8` on A. -/
def execInca (s : State) : Outcome := unaryReg State.inc8 .A s

/-- INCB (R335): `inc8` on B. -/
def execIncb (s : State) : Outcome := unaryReg State.inc8 .B s

/-- DEC (R336): `dec8` on a memory byte. -/
def execDec (m : MemOp) (s : State) : Outcome := readModifyWrite State.dec8 m s

/-- DECA (R337): `dec8` on A. -/
def execDeca (s : State) : Outcome := unaryReg State.dec8 .A s

/-- DECB (R338): `dec8` on B. -/
def execDecb (s : State) : Outcome := unaryReg State.dec8 .B s

/-- TST (R339): the flags of a memory byte; no write. -/
def execTst (m : MemOp) (s : State) : Outcome := s.orIllegal (s.resolveEA m) fun t => t.ftch8r1.tst8

/-- TSTA (R340): the flags of A. -/
def execTsta (s : State) : Outcome := .next (s.ld1 .A).tst8

/-- TSTB (R341): the flags of B. -/
def execTstb (s : State) : Outcome := .next (s.ld1 .B).tst8

/-- CLR (R342): memory <- 0; one write, no read (D25). -/
def execClr (m : MemOp) (s : State) : Outcome := s.orIllegal (s.resolveEA m) fun t => t.clr8.stor8

/-- CLRA (R343): A <- 0. -/
def execClra (s : State) : Outcome := .next (s.clr8.st1 .A)

/-- CLRB (R344): B <- 0. -/
def execClrb (s : State) : Outcome := .next (s.clr8.st1 .B)

/-- MUL (R360): D <- A x B, unsigned. -/
def execMul (s : State) : Outcome := .next s.mul

/-- DAA (R361): decimal-adjust A. -/
def execDaa (s : State) : Outcome := .next s.daa

/-- SEX (R362): sign-extend B into D. -/
def execSex (s : State) : Outcome := .next ((s.put16 (aluSex s.b)).st1 .D)

/-- ABX (R363): X <- X + B, B unsigned. -/
def execAbx (s : State) : Outcome := .next s.abx

end Sys2Proof.Machine
end

