-- ==== Sys2Proof/Machine/Branch.lean ====
section
/-! DEFINITION. Branches, jumps, calls and returns (`45_branch_jump.md`). -/

namespace Sys2Proof.Machine

/-- `chk <cond>; qf; pc <- EA; ntck`: taken when the condition holds (R420). -/
def State.branchIf (s : State) (c : ChkCond) : State := (s.chk c).qf State.jump

/-- `chk <cond>; qt; pc <- EA; ntck`: taken when the condition does not hold (R420). -/
def State.branchIfNot (s : State) (c : ChkCond) : State := (s.chk c).qt State.jump

/-- `Push16(S, x[PC]); pc <- EA; ntck`: a call (R460). -/
def State.call (s : State) : State := (s.push16 .S s.pc).jump

/-- BRA (R421): branch always. -/
def execBra (disp : Byte) (s : State) : Outcome := .next (s.rel8 disp).jump

/-- BRN (R422): branch never; the displacement is fetched and ignored. -/
def execBrn (disp : Byte) (s : State) : Outcome := .next (s.rel8 disp)

/-- BHI (R423): `rel8; chk LS; qt; pc <- EA; ntck`. -/
def execBhi (disp : Byte) (s : State) : Outcome := .next ((s.rel8 disp).branchIfNot .LS)

/-- BLS (R424): `rel8; chk LS; qf; pc <- EA; ntck`. -/
def execBls (disp : Byte) (s : State) : Outcome := .next ((s.rel8 disp).branchIf .LS)

/-- BCC (R425): `rel8; chk C; qt; pc <- EA; ntck`. -/
def execBcc (disp : Byte) (s : State) : Outcome := .next ((s.rel8 disp).branchIfNot .C)

/-- BCS (R426): `rel8; chk C; qf; pc <- EA; ntck`. -/
def execBcs (disp : Byte) (s : State) : Outcome := .next ((s.rel8 disp).branchIf .C)

/-- BNE (R427): `rel8; chk Z; qt; pc <- EA; ntck`. -/
def execBne (disp : Byte) (s : State) : Outcome := .next ((s.rel8 disp).branchIfNot .Z)

/-- BEQ (R428): `rel8; chk Z; qf; pc <- EA; ntck`. -/
def execBeq (disp : Byte) (s : State) : Outcome := .next ((s.rel8 disp).branchIf .Z)

/-- BVC (R429): `rel8; chk V; qt; pc <- EA; ntck`. -/
def execBvc (disp : Byte) (s : State) : Outcome := .next ((s.rel8 disp).branchIfNot .V)

/-- BVS (R430): `rel8; chk V; qf; pc <- EA; ntck`. -/
def execBvs (disp : Byte) (s : State) : Outcome := .next ((s.rel8 disp).branchIf .V)

/-- BPL (R431): `rel8; chk N; qt; pc <- EA; ntck`. -/
def execBpl (disp : Byte) (s : State) : Outcome := .next ((s.rel8 disp).branchIfNot .N)

/-- BMI (R432): `rel8; chk N; qf; pc <- EA; ntck`. -/
def execBmi (disp : Byte) (s : State) : Outcome := .next ((s.rel8 disp).branchIf .N)

/-- BGE (R433): `rel8; chk LT; qt; pc <- EA; ntck`. -/
def execBge (disp : Byte) (s : State) : Outcome := .next ((s.rel8 disp).branchIfNot .LT)

/-- BLT (R434): `rel8; chk LT; qf; pc <- EA; ntck`. -/
def execBlt (disp : Byte) (s : State) : Outcome := .next ((s.rel8 disp).branchIf .LT)

/-- BGT (R435): `rel8; chk LE; qt; pc <- EA; ntck`. -/
def execBgt (disp : Byte) (s : State) : Outcome := .next ((s.rel8 disp).branchIfNot .LE)

/-- BLE (R436): `rel8; chk LE; qf; pc <- EA; ntck`. -/
def execBle (disp : Byte) (s : State) : Outcome := .next ((s.rel8 disp).branchIf .LE)

/-- LBRA (R442): branch always. -/
def execLbra (disp : Word) (s : State) : Outcome := .next (s.rel16 disp).jump

/-- LBRN (R443): branch never; the displacement is fetched and ignored. -/
def execLbrn (disp : Word) (s : State) : Outcome := .next (s.rel16 disp)

/-- LBHI (R444): `rel16; chk LS; qt; pc <- EA; ntck`. -/
def execLbhi (disp : Word) (s : State) : Outcome := .next ((s.rel16 disp).branchIfNot .LS)

/-- LBLS (R445): `rel16; chk LS; qf; pc <- EA; ntck`. -/
def execLbls (disp : Word) (s : State) : Outcome := .next ((s.rel16 disp).branchIf .LS)

/-- LBCC (R446): `rel16; chk C; qt; pc <- EA; ntck`. -/
def execLbcc (disp : Word) (s : State) : Outcome := .next ((s.rel16 disp).branchIfNot .C)

/-- LBCS (R447): `rel16; chk C; qf; pc <- EA; ntck`. -/
def execLbcs (disp : Word) (s : State) : Outcome := .next ((s.rel16 disp).branchIf .C)

/-- LBNE (R448): `rel16; chk Z; qt; pc <- EA; ntck`. -/
def execLbne (disp : Word) (s : State) : Outcome := .next ((s.rel16 disp).branchIfNot .Z)

/-- LBEQ (R449): `rel16; chk Z; qf; pc <- EA; ntck`. -/
def execLbeq (disp : Word) (s : State) : Outcome := .next ((s.rel16 disp).branchIf .Z)

/-- LBVC (R450): `rel16; chk V; qt; pc <- EA; ntck`. -/
def execLbvc (disp : Word) (s : State) : Outcome := .next ((s.rel16 disp).branchIfNot .V)

/-- LBVS (R451): `rel16; chk V; qf; pc <- EA; ntck`. -/
def execLbvs (disp : Word) (s : State) : Outcome := .next ((s.rel16 disp).branchIf .V)

/-- LBPL (R452): `rel16; chk N; qt; pc <- EA; ntck`. -/
def execLbpl (disp : Word) (s : State) : Outcome := .next ((s.rel16 disp).branchIfNot .N)

/-- LBMI (R453): `rel16; chk N; qf; pc <- EA; ntck`. -/
def execLbmi (disp : Word) (s : State) : Outcome := .next ((s.rel16 disp).branchIf .N)

/-- LBGE (R454): `rel16; chk LT; qt; pc <- EA; ntck`. -/
def execLbge (disp : Word) (s : State) : Outcome := .next ((s.rel16 disp).branchIfNot .LT)

/-- LBLT (R455): `rel16; chk LT; qf; pc <- EA; ntck`. -/
def execLblt (disp : Word) (s : State) : Outcome := .next ((s.rel16 disp).branchIf .LT)

/-- LBGT (R456): `rel16; chk LE; qt; pc <- EA; ntck`. -/
def execLbgt (disp : Word) (s : State) : Outcome := .next ((s.rel16 disp).branchIfNot .LE)

/-- LBLE (R457): `rel16; chk LE; qf; pc <- EA; ntck`. -/
def execLble (disp : Word) (s : State) : Outcome := .next ((s.rel16 disp).branchIf .LE)

/-- BSR (R460): branch to subroutine, short. -/
def execBsr (disp : Byte) (s : State) : Outcome := .next (s.rel8 disp).call

/-- LBSR (R461): branch to subroutine, long. -/
def execLbsr (disp : Word) (s : State) : Outcome := .next (s.rel16 disp).call

/-- JSR (R462): jump to subroutine; EA is formed before the push. -/
def execJsr (m : MemOp) (s : State) : Outcome := s.orIllegal (s.resolveEA m) State.call

/-- RTS (R463): `pc <- Pull16(S); ntck`. -/
def execRts (s : State) : Outcome := .next { s.pullReg .S .PC with ntck := true }

/-- JMP (R464): jump to an effective address. -/
def execJmp (m : MemOp) (s : State) : Outcome := s.orIllegal (s.resolveEA m) State.jump

end Sys2Proof.Machine
end

