-- ==== Sys2Proof/Machine/LoadStore.lean ====
section
/-! DEFINITION. Load, store, load effective address, transfer, exchange (`42_load_store_transfer.md`). -/

namespace Sys2Proof.Machine

/-! ### Shared operations -/

/-- An 8-bit load: `v <- Operand8(format); x[r] <- v; tst8(v)` (R261). -/
def load8 (r : Reg) (src : Src8) (s : State) : Outcome :=
  s.orIllegal (s.operand8r1 src) fun t => (t.st1 r).tst8

/-- A 16-bit load: `v <- Operand16(format); x[r] <- v; tst16(v)` (R263). -/
def load16 (r : Reg) (src : Src16) (s : State) : Outcome :=
  s.orIllegal (s.operand16r1 src) fun t => (t.st1 r).tst16

/-- An 8-bit store: `ResolveEA(format); v <- x[r]; tst8(v); MemWrite(EA, 1, v)` (R270). -/
def store8 (r : Reg) (m : MemOp) (s : State) : Outcome :=
  s.orIllegal (s.resolveEA m) fun t => (t.ld1 r).tst8.stor8

/-- A 16-bit store: `ResolveEA(format); v <- x[r]; tst16(v); MemWrite(EA, 2, v)` (R272). -/
def store16 (r : Reg) (m : MemOp) (s : State) : Outcome :=
  s.orIllegal (s.resolveEA m) fun t => (t.ld1 r).tst16.stor16

/-- `indx; x[r] <- EA; Z <- (EA = 0)` (R285). -/
def leaZ (r : Reg) (ix : Index) (s : State) : Outcome :=
  s.orIllegal (s.indx ix) fun t => (t.setReg r t.ea).flags { z := isZero t.ea }

/-- `indx; x[r] <- EA` (R287): no flag. -/
def lea (r : Reg) (ix : Index) (s : State) : Outcome :=
  s.orIllegal (s.indx ix) fun t => t.setReg r t.ea

/-! ### The instructions -/

/-- LDA (R261): load A. -/
def execLda (src : Src8) (s : State) : Outcome := load8 .A src s

/-- LDB (R262): load B. -/
def execLdb (src : Src8) (s : State) : Outcome := load8 .B src s

/-- LDD (R263): load D. -/
def execLdd (src : Src16) (s : State) : Outcome := load16 .D src s

/-- LDX (R264): load X. -/
def execLdx (src : Src16) (s : State) : Outcome := load16 .X src s

/-- LDY (R265): load Y. -/
def execLdy (src : Src16) (s : State) : Outcome := load16 .Y src s

/-- LDU (R266): load U. -/
def execLdu (src : Src16) (s : State) : Outcome := load16 .U src s

/-- LDS (R267): load S. -/
def execLds (src : Src16) (s : State) : Outcome := load16 .S src s

/-- STA (R270): store A. -/
def execSta (m : MemOp) (s : State) : Outcome := store8 .A m s

/-- STB (R271): store B. -/
def execStb (m : MemOp) (s : State) : Outcome := store8 .B m s

/-- STD (R272): store D. -/
def execStd (m : MemOp) (s : State) : Outcome := store16 .D m s

/-- STX (R273): store X. -/
def execStx (m : MemOp) (s : State) : Outcome := store16 .X m s

/-- STY (R274): store Y. -/
def execSty (m : MemOp) (s : State) : Outcome := store16 .Y m s

/-- STU (R275): store U. -/
def execStu (m : MemOp) (s : State) : Outcome := store16 .U m s

/-- STS (R276): store S. -/
def execSts (m : MemOp) (s : State) : Outcome := store16 .S m s

/-- LEAX (R285): X <- effective address, Z from it. -/
def execLeax (ix : Index) (s : State) : Outcome := leaZ .X ix s

/-- LEAY (R286): Y <- effective address, Z from it. -/
def execLeay (ix : Index) (s : State) : Outcome := leaZ .Y ix s

/-- LEAS (R287): S <- effective address, no flag. -/
def execLeas (ix : Index) (s : State) : Outcome := lea .S ix s

/-- LEAU (R288): U <- effective address, no flag. -/
def execLeau (ix : Index) (s : State) : Outcome := lea .U ix s

/-- TFR (R290): `v <- x[src]; x[dst] <- v`, masked to the destination's width (log 26); an undefined code raises
`IllegalOpcode` (R165). -/
def execTfr (src dst : PairReg) (s : State) : Outcome :=
  match regOf src, regOf dst with
  | some p, some q => .next ((s.ld1 p).st1 q)
  | _, _ => s.raiseIllegal

/-- EXG (R291): both registers are read before either is written. -/
def execExg (src dst : PairReg) (s : State) : Outcome :=
  match regOf src, regOf dst with
  | some p, some q => .next ((((s.ld1 p).ld2 q).st2 p).st1 q)
  | _, _ => s.raiseIllegal

end Sys2Proof.Machine
end

