-- ==== Sys2Proof/Machine/Logic.lean ====
section
/-! DEFINITION. Logic, shifts, rotates, and the direct operations on CC (`44_logic_shift.md`). -/

namespace Sys2Proof.Machine

/-- ANDA (R370): `and8` on A. -/
def execAnda (src : Src8) (s : State) : Outcome := binary8 State.and8 .A src s

/-- ANDB (R371): `and8` on B. -/
def execAndb (src : Src8) (s : State) : Outcome := binary8 State.and8 .B src s

/-- ORA (R372): `or8` on A. -/
def execOra (src : Src8) (s : State) : Outcome := binary8 State.or8 .A src s

/-- ORB (R373): `or8` on B. -/
def execOrb (src : Src8) (s : State) : Outcome := binary8 State.or8 .B src s

/-- EORA (R374): `eor8` on A. -/
def execEora (src : Src8) (s : State) : Outcome := binary8 State.eor8 .A src s

/-- EORB (R375): `eor8` on B. -/
def execEorb (src : Src8) (s : State) : Outcome := binary8 State.eor8 .B src s

/-- BITA (R376): the flags of A and operand. -/
def execBita (src : Src8) (s : State) : Outcome := test8 State.and8 .A src s

/-- BITB (R377): the flags of B and operand. -/
def execBitb (src : Src8) (s : State) : Outcome := test8 State.and8 .B src s

/-- COM (R380): `com8` on a memory byte. -/
def execCom (m : MemOp) (s : State) : Outcome := readModifyWrite State.com8 m s

/-- COMA (R381): `com8` on A. -/
def execComa (s : State) : Outcome := unaryReg State.com8 .A s

/-- COMB (R382): `com8` on B. -/
def execComb (s : State) : Outcome := unaryReg State.com8 .B s

/-- LSR (R383): `lsr8` on a memory byte. -/
def execLsr (m : MemOp) (s : State) : Outcome := readModifyWrite State.lsr8 m s

/-- LSRA (R384): `lsr8` on A. -/
def execLsra (s : State) : Outcome := unaryReg State.lsr8 .A s

/-- LSRB (R385): `lsr8` on B. -/
def execLsrb (s : State) : Outcome := unaryReg State.lsr8 .B s

/-- ROR (R386): `ror8` on a memory byte. -/
def execRor (m : MemOp) (s : State) : Outcome := readModifyWrite State.ror8 m s

/-- RORA (R387): `ror8` on A. -/
def execRora (s : State) : Outcome := unaryReg State.ror8 .A s

/-- RORB (R388): `ror8` on B. -/
def execRorb (s : State) : Outcome := unaryReg State.ror8 .B s

/-- ASR (R389): `asr8` on a memory byte. -/
def execAsr (m : MemOp) (s : State) : Outcome := readModifyWrite State.asr8 m s

/-- ASRA (R390): `asr8` on A. -/
def execAsra (s : State) : Outcome := unaryReg State.asr8 .A s

/-- ASRB (R391): `asr8` on B. -/
def execAsrb (s : State) : Outcome := unaryReg State.asr8 .B s

/-- LSL (R392): `lsl8` on a memory byte. -/
def execLsl (m : MemOp) (s : State) : Outcome := readModifyWrite State.lsl8 m s

/-- LSLA (R393): `lsl8` on A. -/
def execLsla (s : State) : Outcome := unaryReg State.lsl8 .A s

/-- LSLB (R394): `lsl8` on B. -/
def execLslb (s : State) : Outcome := unaryReg State.lsl8 .B s

/-- ROL (R395): `rol8` on a memory byte. -/
def execRol (m : MemOp) (s : State) : Outcome := readModifyWrite State.rol8 m s

/-- ROLA (R396): `rol8` on A. -/
def execRola (s : State) : Outcome := unaryReg State.rol8 .A s

/-- ROLB (R397): `rol8` on B. -/
def execRolb (s : State) : Outcome := unaryReg State.rol8 .B s

/-- ANDCC (R410): CC <- CC and imm8. -/
def execAndcc (mask : Byte) (s : State) : Outcome := .next { s with cc := s.cc &&& mask }

/-- ORCC (R411): CC <- CC or imm8. -/
def execOrcc (mask : Byte) (s : State) : Outcome := .next { s with cc := s.cc ||| mask }

end Sys2Proof.Machine
end

