-- ==== Sys2Proof/Machine/System.lean ====
section
/-! DEFINITION. Stack, software interrupts, RTI, CWAI, SYNC, NOP and the page prefixes (`46_stack_system.md`). -/

namespace Sys2Proof.Machine

/-- PSHS (R470): push the listed registers on the S stack. -/
def execPshs (list : Byte) (s : State) : Outcome := .next (s.pushList .S list)

/-- PSHU (R472): push the listed registers on the U stack. -/
def execPshu (list : Byte) (s : State) : Outcome := .next (s.pushList .U list)

/-- PULS (R471): pull the listed registers from the S stack. -/
def execPuls (list : Byte) (s : State) : Outcome := .next (s.pullList .S list)

/-- PULU (R473): pull the listed registers from the U stack. -/
def execPulu (list : Byte) (s : State) : Outcome := .next (s.pullList .U list)

/-- SWI (R480): the entire state, I and F, the SWI vector. -/
def execSwi (s : State) : Outcome := .next (s.swi true s.cfg.vectors.swi)

/-- SWI2 (R481): the entire state, no mask, the SWI2 vector. -/
def execSwi2 (s : State) : Outcome := .next (s.swi false s.cfg.vectors.swi2)

/-- SWI3 (R482): the entire state, no mask, the SWI3 vector. -/
def execSwi3 (s : State) : Outcome := .next (s.swi false s.cfg.vectors.swi3)

/-- RTI (R483): return from interrupt. -/
def execRti (s : State) : Outcome := .next s.rti

/-- CWAI (R485): CC <- CC and mask; the entire state is pushed first when `CWAI_PRESTACK`; `wait`. -/
def execCwai (mask : Byte) (s : State) : Outcome :=
  let t := { s with cc := s.cc &&& mask }
  .next (if t.cfg.cwaiPrestack then t.pushFrame .entire else t).wait

/-- SYNC (R486): run state Syncing. -/
def execSync (s : State) : Outcome := .next s.sync

/-- NOP (R487): nothing but the advance of PC, which the fetch made. -/
def execNop (s : State) : Outcome := .next s

/-- PREFIX10 (R490): the prefix entry: page 0x10 for the repeated fetch (R168). -/
def execPrefix10 (s : State) : Outcome := .next (s.recordPage .p10)

/-- PREFIX11 (R491): the prefix entry: page 0x11 for the repeated fetch (R168). -/
def execPrefix11 (s : State) : Outcome := .next (s.recordPage .p11)

end Sys2Proof.Machine
end

