-- ==== Sys2Proof/Machine/Dispatch.lean ====
section
/-! DEFINITION. One arm for each constructor of Instr. PC already holds the address of the next instruction. -/

namespace Sys2Proof.Machine

def exec (i : Instr) (s : State) : Host.Outcome State Fault Refusal :=
  match i with
  | .lda src => Sys2Proof.Machine.execLda src s
  | .ldb src => Sys2Proof.Machine.execLdb src s
  | .ldd src => Sys2Proof.Machine.execLdd src s
  | .ldx src => Sys2Proof.Machine.execLdx src s
  | .ldy src => Sys2Proof.Machine.execLdy src s
  | .ldu src => Sys2Proof.Machine.execLdu src s
  | .lds src => Sys2Proof.Machine.execLds src s
  | .sta m => Sys2Proof.Machine.execSta m s
  | .stb m => Sys2Proof.Machine.execStb m s
  | .std m => Sys2Proof.Machine.execStd m s
  | .stx m => Sys2Proof.Machine.execStx m s
  | .sty m => Sys2Proof.Machine.execSty m s
  | .stu m => Sys2Proof.Machine.execStu m s
  | .sts m => Sys2Proof.Machine.execSts m s
  | .leax ix => Sys2Proof.Machine.execLeax ix s
  | .leay ix => Sys2Proof.Machine.execLeay ix s
  | .leas ix => Sys2Proof.Machine.execLeas ix s
  | .leau ix => Sys2Proof.Machine.execLeau ix s
  | .tfr src dst => Sys2Proof.Machine.execTfr src dst s
  | .exg src dst => Sys2Proof.Machine.execExg src dst s
  | .adda src => Sys2Proof.Machine.execAdda src s
  | .addb src => Sys2Proof.Machine.execAddb src s
  | .adca src => Sys2Proof.Machine.execAdca src s
  | .adcb src => Sys2Proof.Machine.execAdcb src s
  | .addd src => Sys2Proof.Machine.execAddd src s
  | .suba src => Sys2Proof.Machine.execSuba src s
  | .subb src => Sys2Proof.Machine.execSubb src s
  | .sbca src => Sys2Proof.Machine.execSbca src s
  | .sbcb src => Sys2Proof.Machine.execSbcb src s
  | .subd src => Sys2Proof.Machine.execSubd src s
  | .cmpa src => Sys2Proof.Machine.execCmpa src s
  | .cmpb src => Sys2Proof.Machine.execCmpb src s
  | .cmpd src => Sys2Proof.Machine.execCmpd src s
  | .cmpx src => Sys2Proof.Machine.execCmpx src s
  | .cmpy src => Sys2Proof.Machine.execCmpy src s
  | .cmpu src => Sys2Proof.Machine.execCmpu src s
  | .cmps src => Sys2Proof.Machine.execCmps src s
  | .neg m => Sys2Proof.Machine.execNeg m s
  | .nega => Sys2Proof.Machine.execNega s
  | .negb => Sys2Proof.Machine.execNegb s
  | .inc m => Sys2Proof.Machine.execInc m s
  | .inca => Sys2Proof.Machine.execInca s
  | .incb => Sys2Proof.Machine.execIncb s
  | .dec m => Sys2Proof.Machine.execDec m s
  | .deca => Sys2Proof.Machine.execDeca s
  | .decb => Sys2Proof.Machine.execDecb s
  | .tst m => Sys2Proof.Machine.execTst m s
  | .tsta => Sys2Proof.Machine.execTsta s
  | .tstb => Sys2Proof.Machine.execTstb s
  | .clr m => Sys2Proof.Machine.execClr m s
  | .clra => Sys2Proof.Machine.execClra s
  | .clrb => Sys2Proof.Machine.execClrb s
  | .mul => Sys2Proof.Machine.execMul s
  | .daa => Sys2Proof.Machine.execDaa s
  | .sex => Sys2Proof.Machine.execSex s
  | .abx => Sys2Proof.Machine.execAbx s
  | .anda src => Sys2Proof.Machine.execAnda src s
  | .andb src => Sys2Proof.Machine.execAndb src s
  | .ora src => Sys2Proof.Machine.execOra src s
  | .orb src => Sys2Proof.Machine.execOrb src s
  | .eora src => Sys2Proof.Machine.execEora src s
  | .eorb src => Sys2Proof.Machine.execEorb src s
  | .bita src => Sys2Proof.Machine.execBita src s
  | .bitb src => Sys2Proof.Machine.execBitb src s
  | .com m => Sys2Proof.Machine.execCom m s
  | .coma => Sys2Proof.Machine.execComa s
  | .comb => Sys2Proof.Machine.execComb s
  | .lsr m => Sys2Proof.Machine.execLsr m s
  | .lsra => Sys2Proof.Machine.execLsra s
  | .lsrb => Sys2Proof.Machine.execLsrb s
  | .ror m => Sys2Proof.Machine.execRor m s
  | .rora => Sys2Proof.Machine.execRora s
  | .rorb => Sys2Proof.Machine.execRorb s
  | .asr m => Sys2Proof.Machine.execAsr m s
  | .asra => Sys2Proof.Machine.execAsra s
  | .asrb => Sys2Proof.Machine.execAsrb s
  | .lsl m => Sys2Proof.Machine.execLsl m s
  | .lsla => Sys2Proof.Machine.execLsla s
  | .lslb => Sys2Proof.Machine.execLslb s
  | .rol m => Sys2Proof.Machine.execRol m s
  | .rola => Sys2Proof.Machine.execRola s
  | .rolb => Sys2Proof.Machine.execRolb s
  | .andcc mask => Sys2Proof.Machine.execAndcc mask s
  | .orcc mask => Sys2Proof.Machine.execOrcc mask s
  | .bra disp => Sys2Proof.Machine.execBra disp s
  | .brn disp => Sys2Proof.Machine.execBrn disp s
  | .bhi disp => Sys2Proof.Machine.execBhi disp s
  | .bls disp => Sys2Proof.Machine.execBls disp s
  | .bcc disp => Sys2Proof.Machine.execBcc disp s
  | .bcs disp => Sys2Proof.Machine.execBcs disp s
  | .bne disp => Sys2Proof.Machine.execBne disp s
  | .beq disp => Sys2Proof.Machine.execBeq disp s
  | .bvc disp => Sys2Proof.Machine.execBvc disp s
  | .bvs disp => Sys2Proof.Machine.execBvs disp s
  | .bpl disp => Sys2Proof.Machine.execBpl disp s
  | .bmi disp => Sys2Proof.Machine.execBmi disp s
  | .bge disp => Sys2Proof.Machine.execBge disp s
  | .blt disp => Sys2Proof.Machine.execBlt disp s
  | .bgt disp => Sys2Proof.Machine.execBgt disp s
  | .ble disp => Sys2Proof.Machine.execBle disp s
  | .lbra disp => Sys2Proof.Machine.execLbra disp s
  | .lbrn disp => Sys2Proof.Machine.execLbrn disp s
  | .lbhi disp => Sys2Proof.Machine.execLbhi disp s
  | .lbls disp => Sys2Proof.Machine.execLbls disp s
  | .lbcc disp => Sys2Proof.Machine.execLbcc disp s
  | .lbcs disp => Sys2Proof.Machine.execLbcs disp s
  | .lbne disp => Sys2Proof.Machine.execLbne disp s
  | .lbeq disp => Sys2Proof.Machine.execLbeq disp s
  | .lbvc disp => Sys2Proof.Machine.execLbvc disp s
  | .lbvs disp => Sys2Proof.Machine.execLbvs disp s
  | .lbpl disp => Sys2Proof.Machine.execLbpl disp s
  | .lbmi disp => Sys2Proof.Machine.execLbmi disp s
  | .lbge disp => Sys2Proof.Machine.execLbge disp s
  | .lblt disp => Sys2Proof.Machine.execLblt disp s
  | .lbgt disp => Sys2Proof.Machine.execLbgt disp s
  | .lble disp => Sys2Proof.Machine.execLble disp s
  | .bsr disp => Sys2Proof.Machine.execBsr disp s
  | .lbsr disp => Sys2Proof.Machine.execLbsr disp s
  | .jsr m => Sys2Proof.Machine.execJsr m s
  | .rts => Sys2Proof.Machine.execRts s
  | .jmp m => Sys2Proof.Machine.execJmp m s
  | .pshs list => Sys2Proof.Machine.execPshs list s
  | .puls list => Sys2Proof.Machine.execPuls list s
  | .pshu list => Sys2Proof.Machine.execPshu list s
  | .pulu list => Sys2Proof.Machine.execPulu list s
  | .swi => Sys2Proof.Machine.execSwi s
  | .swi2 => Sys2Proof.Machine.execSwi2 s
  | .swi3 => Sys2Proof.Machine.execSwi3 s
  | .rti => Sys2Proof.Machine.execRti s
  | .cwai mask => Sys2Proof.Machine.execCwai mask s
  | .sync => Sys2Proof.Machine.execSync s
  | .nop => Sys2Proof.Machine.execNop s
  | .prefix10 => Sys2Proof.Machine.execPrefix10 s
  | .prefix11 => Sys2Proof.Machine.execPrefix11 s

end Sys2Proof.Machine
end

