-- ==== Sys2Proof/Decode.lean ====
section
/-! DEFINITION. The opcode table, the decoder (total on any bytes) and, after it, the encoder (`30_encoding.md`). -/

namespace Sys2Proof

/-! ### The opcode table -/

/-- The capabilities of an entry's addressing mask (R37 of `10_state.md`, R105 of `30_encoding.md`). -/
inductive Capability where
  | simple | pseudo | immediate | direct | extended | indexed | registerList | registerPair | pcRelative | pager | bits16
  deriving DecidableEq, Repr

/-- The capabilities each format stands for (R91's second column). -/
def Format.capabilities : Format → List Capability
  | .inh => [.simple]
  | .imm8 => [.immediate]
  | .imm16 => [.immediate, .bits16]
  | .dir => [.direct]
  | .ext => [.extended]
  | .idx => [.indexed]
  | .rel8 => [.pcRelative]
  | .rel16 => [.pcRelative, .bits16]
  | .rpair => [.registerPair]
  | .rlist => [.registerList]
  | .pager => [.pager]

/-- One entry of the opcode table: an Instruction record of R37, one for each (mnemonic, format) pair. -/
structure Row where
  mnemonic : Mnemonic
  format : Format
  page : Page
  opcode : Byte
  deriving DecidableEq, Repr

/-- The capability mask of an entry (R37, R105). -/
def Row.addressingMask (r : Row) : List Capability := r.format.capabilities

/-- Page 0, opcodes 0x00 to 0x3F (R110, R111 of `30_encoding.md`). -/
def rows00 : List Row :=
  [⟨.neg, .dir, .p0, 0x00⟩, ⟨.com, .dir, .p0, 0x03⟩, ⟨.lsr, .dir, .p0, 0x04⟩, ⟨.ror, .dir, .p0, 0x06⟩,
   ⟨.asr, .dir, .p0, 0x07⟩, ⟨.lsl, .dir, .p0, 0x08⟩, ⟨.rol, .dir, .p0, 0x09⟩, ⟨.dec, .dir, .p0, 0x0A⟩,
   ⟨.inc, .dir, .p0, 0x0C⟩, ⟨.tst, .dir, .p0, 0x0D⟩, ⟨.jmp, .dir, .p0, 0x0E⟩, ⟨.clr, .dir, .p0, 0x0F⟩,
   ⟨.prefix10, .pager, .p0, 0x10⟩, ⟨.prefix11, .pager, .p0, 0x11⟩, ⟨.nop, .inh, .p0, 0x12⟩, ⟨.sync, .inh, .p0, 0x13⟩,
   ⟨.lbra, .rel16, .p0, 0x16⟩, ⟨.lbsr, .rel16, .p0, 0x17⟩, ⟨.daa, .inh, .p0, 0x19⟩, ⟨.orcc, .imm8, .p0, 0x1A⟩,
   ⟨.andcc, .imm8, .p0, 0x1C⟩, ⟨.sex, .inh, .p0, 0x1D⟩, ⟨.exg, .rpair, .p0, 0x1E⟩, ⟨.tfr, .rpair, .p0, 0x1F⟩,
   ⟨.bra, .rel8, .p0, 0x20⟩, ⟨.brn, .rel8, .p0, 0x21⟩, ⟨.bhi, .rel8, .p0, 0x22⟩, ⟨.bls, .rel8, .p0, 0x23⟩,
   ⟨.bcc, .rel8, .p0, 0x24⟩, ⟨.bcs, .rel8, .p0, 0x25⟩, ⟨.bne, .rel8, .p0, 0x26⟩, ⟨.beq, .rel8, .p0, 0x27⟩,
   ⟨.bvc, .rel8, .p0, 0x28⟩, ⟨.bvs, .rel8, .p0, 0x29⟩, ⟨.bpl, .rel8, .p0, 0x2A⟩, ⟨.bmi, .rel8, .p0, 0x2B⟩,
   ⟨.bge, .rel8, .p0, 0x2C⟩, ⟨.blt, .rel8, .p0, 0x2D⟩, ⟨.bgt, .rel8, .p0, 0x2E⟩, ⟨.ble, .rel8, .p0, 0x2F⟩,
   ⟨.leax, .idx, .p0, 0x30⟩, ⟨.leay, .idx, .p0, 0x31⟩, ⟨.leas, .idx, .p0, 0x32⟩, ⟨.leau, .idx, .p0, 0x33⟩,
   ⟨.pshs, .rlist, .p0, 0x34⟩, ⟨.puls, .rlist, .p0, 0x35⟩, ⟨.pshu, .rlist, .p0, 0x36⟩, ⟨.pulu, .rlist, .p0, 0x37⟩,
   ⟨.rts, .inh, .p0, 0x39⟩, ⟨.abx, .inh, .p0, 0x3A⟩, ⟨.rti, .inh, .p0, 0x3B⟩, ⟨.cwai, .imm8, .p0, 0x3C⟩,
   ⟨.mul, .inh, .p0, 0x3D⟩, ⟨.swi, .inh, .p0, 0x3F⟩]

/-- Page 0, opcodes 0x40 to 0x7F (R112). -/
def rows40 : List Row :=
  [⟨.nega, .inh, .p0, 0x40⟩, ⟨.coma, .inh, .p0, 0x43⟩, ⟨.lsra, .inh, .p0, 0x44⟩, ⟨.rora, .inh, .p0, 0x46⟩,
   ⟨.asra, .inh, .p0, 0x47⟩, ⟨.lsla, .inh, .p0, 0x48⟩, ⟨.rola, .inh, .p0, 0x49⟩, ⟨.deca, .inh, .p0, 0x4A⟩,
   ⟨.inca, .inh, .p0, 0x4C⟩, ⟨.tsta, .inh, .p0, 0x4D⟩, ⟨.clra, .inh, .p0, 0x4F⟩, ⟨.negb, .inh, .p0, 0x50⟩,
   ⟨.comb, .inh, .p0, 0x53⟩, ⟨.lsrb, .inh, .p0, 0x54⟩, ⟨.rorb, .inh, .p0, 0x56⟩, ⟨.asrb, .inh, .p0, 0x57⟩,
   ⟨.lslb, .inh, .p0, 0x58⟩, ⟨.rolb, .inh, .p0, 0x59⟩, ⟨.decb, .inh, .p0, 0x5A⟩, ⟨.incb, .inh, .p0, 0x5C⟩,
   ⟨.tstb, .inh, .p0, 0x5D⟩, ⟨.clrb, .inh, .p0, 0x5F⟩, ⟨.neg, .idx, .p0, 0x60⟩, ⟨.com, .idx, .p0, 0x63⟩,
   ⟨.lsr, .idx, .p0, 0x64⟩, ⟨.ror, .idx, .p0, 0x66⟩, ⟨.asr, .idx, .p0, 0x67⟩, ⟨.lsl, .idx, .p0, 0x68⟩,
   ⟨.rol, .idx, .p0, 0x69⟩, ⟨.dec, .idx, .p0, 0x6A⟩, ⟨.inc, .idx, .p0, 0x6C⟩, ⟨.tst, .idx, .p0, 0x6D⟩,
   ⟨.jmp, .idx, .p0, 0x6E⟩, ⟨.clr, .idx, .p0, 0x6F⟩, ⟨.neg, .ext, .p0, 0x70⟩, ⟨.com, .ext, .p0, 0x73⟩,
   ⟨.lsr, .ext, .p0, 0x74⟩, ⟨.ror, .ext, .p0, 0x76⟩, ⟨.asr, .ext, .p0, 0x77⟩, ⟨.lsl, .ext, .p0, 0x78⟩,
   ⟨.rol, .ext, .p0, 0x79⟩, ⟨.dec, .ext, .p0, 0x7A⟩, ⟨.inc, .ext, .p0, 0x7C⟩, ⟨.tst, .ext, .p0, 0x7D⟩,
   ⟨.jmp, .ext, .p0, 0x7E⟩, ⟨.clr, .ext, .p0, 0x7F⟩]

/-- Page 0, opcodes 0x80 to 0xBF (R113). -/
def rows80 : List Row :=
  [⟨.suba, .imm8, .p0, 0x80⟩, ⟨.cmpa, .imm8, .p0, 0x81⟩, ⟨.sbca, .imm8, .p0, 0x82⟩, ⟨.subd, .imm16, .p0, 0x83⟩,
   ⟨.anda, .imm8, .p0, 0x84⟩, ⟨.bita, .imm8, .p0, 0x85⟩, ⟨.lda, .imm8, .p0, 0x86⟩, ⟨.eora, .imm8, .p0, 0x88⟩,
   ⟨.adca, .imm8, .p0, 0x89⟩, ⟨.ora, .imm8, .p0, 0x8A⟩, ⟨.adda, .imm8, .p0, 0x8B⟩, ⟨.cmpx, .imm16, .p0, 0x8C⟩,
   ⟨.bsr, .rel8, .p0, 0x8D⟩, ⟨.ldx, .imm16, .p0, 0x8E⟩, ⟨.suba, .dir, .p0, 0x90⟩, ⟨.cmpa, .dir, .p0, 0x91⟩,
   ⟨.sbca, .dir, .p0, 0x92⟩, ⟨.subd, .dir, .p0, 0x93⟩, ⟨.anda, .dir, .p0, 0x94⟩, ⟨.bita, .dir, .p0, 0x95⟩,
   ⟨.lda, .dir, .p0, 0x96⟩, ⟨.sta, .dir, .p0, 0x97⟩, ⟨.eora, .dir, .p0, 0x98⟩, ⟨.adca, .dir, .p0, 0x99⟩,
   ⟨.ora, .dir, .p0, 0x9A⟩, ⟨.adda, .dir, .p0, 0x9B⟩, ⟨.cmpx, .dir, .p0, 0x9C⟩, ⟨.jsr, .dir, .p0, 0x9D⟩,
   ⟨.ldx, .dir, .p0, 0x9E⟩, ⟨.stx, .dir, .p0, 0x9F⟩, ⟨.suba, .idx, .p0, 0xA0⟩, ⟨.cmpa, .idx, .p0, 0xA1⟩,
   ⟨.sbca, .idx, .p0, 0xA2⟩, ⟨.subd, .idx, .p0, 0xA3⟩, ⟨.anda, .idx, .p0, 0xA4⟩, ⟨.bita, .idx, .p0, 0xA5⟩,
   ⟨.lda, .idx, .p0, 0xA6⟩, ⟨.sta, .idx, .p0, 0xA7⟩, ⟨.eora, .idx, .p0, 0xA8⟩, ⟨.adca, .idx, .p0, 0xA9⟩,
   ⟨.ora, .idx, .p0, 0xAA⟩, ⟨.adda, .idx, .p0, 0xAB⟩, ⟨.cmpx, .idx, .p0, 0xAC⟩, ⟨.jsr, .idx, .p0, 0xAD⟩,
   ⟨.ldx, .idx, .p0, 0xAE⟩, ⟨.stx, .idx, .p0, 0xAF⟩, ⟨.suba, .ext, .p0, 0xB0⟩, ⟨.cmpa, .ext, .p0, 0xB1⟩,
   ⟨.sbca, .ext, .p0, 0xB2⟩, ⟨.subd, .ext, .p0, 0xB3⟩, ⟨.anda, .ext, .p0, 0xB4⟩, ⟨.bita, .ext, .p0, 0xB5⟩,
   ⟨.lda, .ext, .p0, 0xB6⟩, ⟨.sta, .ext, .p0, 0xB7⟩, ⟨.eora, .ext, .p0, 0xB8⟩, ⟨.adca, .ext, .p0, 0xB9⟩,
   ⟨.ora, .ext, .p0, 0xBA⟩, ⟨.adda, .ext, .p0, 0xBB⟩, ⟨.cmpx, .ext, .p0, 0xBC⟩, ⟨.jsr, .ext, .p0, 0xBD⟩,
   ⟨.ldx, .ext, .p0, 0xBE⟩, ⟨.stx, .ext, .p0, 0xBF⟩]

/-- Page 0, opcodes 0xC0 to 0xFF (R114). -/
def rowsC0 : List Row :=
  [⟨.subb, .imm8, .p0, 0xC0⟩, ⟨.cmpb, .imm8, .p0, 0xC1⟩, ⟨.sbcb, .imm8, .p0, 0xC2⟩, ⟨.addd, .imm16, .p0, 0xC3⟩,
   ⟨.andb, .imm8, .p0, 0xC4⟩, ⟨.bitb, .imm8, .p0, 0xC5⟩, ⟨.ldb, .imm8, .p0, 0xC6⟩, ⟨.eorb, .imm8, .p0, 0xC8⟩,
   ⟨.adcb, .imm8, .p0, 0xC9⟩, ⟨.orb, .imm8, .p0, 0xCA⟩, ⟨.addb, .imm8, .p0, 0xCB⟩, ⟨.ldd, .imm16, .p0, 0xCC⟩,
   ⟨.ldu, .imm16, .p0, 0xCE⟩, ⟨.subb, .dir, .p0, 0xD0⟩, ⟨.cmpb, .dir, .p0, 0xD1⟩, ⟨.sbcb, .dir, .p0, 0xD2⟩,
   ⟨.addd, .dir, .p0, 0xD3⟩, ⟨.andb, .dir, .p0, 0xD4⟩, ⟨.bitb, .dir, .p0, 0xD5⟩, ⟨.ldb, .dir, .p0, 0xD6⟩,
   ⟨.stb, .dir, .p0, 0xD7⟩, ⟨.eorb, .dir, .p0, 0xD8⟩, ⟨.adcb, .dir, .p0, 0xD9⟩, ⟨.orb, .dir, .p0, 0xDA⟩,
   ⟨.addb, .dir, .p0, 0xDB⟩, ⟨.ldd, .dir, .p0, 0xDC⟩, ⟨.std, .dir, .p0, 0xDD⟩, ⟨.ldu, .dir, .p0, 0xDE⟩,
   ⟨.stu, .dir, .p0, 0xDF⟩, ⟨.subb, .idx, .p0, 0xE0⟩, ⟨.cmpb, .idx, .p0, 0xE1⟩, ⟨.sbcb, .idx, .p0, 0xE2⟩,
   ⟨.addd, .idx, .p0, 0xE3⟩, ⟨.andb, .idx, .p0, 0xE4⟩, ⟨.bitb, .idx, .p0, 0xE5⟩, ⟨.ldb, .idx, .p0, 0xE6⟩,
   ⟨.stb, .idx, .p0, 0xE7⟩, ⟨.eorb, .idx, .p0, 0xE8⟩, ⟨.adcb, .idx, .p0, 0xE9⟩, ⟨.orb, .idx, .p0, 0xEA⟩,
   ⟨.addb, .idx, .p0, 0xEB⟩, ⟨.ldd, .idx, .p0, 0xEC⟩, ⟨.std, .idx, .p0, 0xED⟩, ⟨.ldu, .idx, .p0, 0xEE⟩,
   ⟨.stu, .idx, .p0, 0xEF⟩, ⟨.subb, .ext, .p0, 0xF0⟩, ⟨.cmpb, .ext, .p0, 0xF1⟩, ⟨.sbcb, .ext, .p0, 0xF2⟩,
   ⟨.addd, .ext, .p0, 0xF3⟩, ⟨.andb, .ext, .p0, 0xF4⟩, ⟨.bitb, .ext, .p0, 0xF5⟩, ⟨.ldb, .ext, .p0, 0xF6⟩,
   ⟨.stb, .ext, .p0, 0xF7⟩, ⟨.eorb, .ext, .p0, 0xF8⟩, ⟨.adcb, .ext, .p0, 0xF9⟩, ⟨.orb, .ext, .p0, 0xFA⟩,
   ⟨.addb, .ext, .p0, 0xFB⟩, ⟨.ldd, .ext, .p0, 0xFC⟩, ⟨.std, .ext, .p0, 0xFD⟩, ⟨.ldu, .ext, .p0, 0xFE⟩,
   ⟨.stu, .ext, .p0, 0xFF⟩]

/-- Page 0x10 (R115). -/
def rowsPage10 : List Row :=
  [⟨.lbrn, .rel16, .p10, 0x21⟩, ⟨.lbhi, .rel16, .p10, 0x22⟩, ⟨.lbls, .rel16, .p10, 0x23⟩,
   ⟨.lbcc, .rel16, .p10, 0x24⟩, ⟨.lbcs, .rel16, .p10, 0x25⟩, ⟨.lbne, .rel16, .p10, 0x26⟩,
   ⟨.lbeq, .rel16, .p10, 0x27⟩, ⟨.lbvc, .rel16, .p10, 0x28⟩, ⟨.lbvs, .rel16, .p10, 0x29⟩,
   ⟨.lbpl, .rel16, .p10, 0x2A⟩, ⟨.lbmi, .rel16, .p10, 0x2B⟩, ⟨.lbge, .rel16, .p10, 0x2C⟩,
   ⟨.lblt, .rel16, .p10, 0x2D⟩, ⟨.lbgt, .rel16, .p10, 0x2E⟩, ⟨.lble, .rel16, .p10, 0x2F⟩, ⟨.swi2, .inh, .p10, 0x3F⟩,
   ⟨.cmpd, .imm16, .p10, 0x83⟩, ⟨.cmpy, .imm16, .p10, 0x8C⟩, ⟨.ldy, .imm16, .p10, 0x8E⟩, ⟨.cmpd, .dir, .p10, 0x93⟩,
   ⟨.cmpy, .dir, .p10, 0x9C⟩, ⟨.ldy, .dir, .p10, 0x9E⟩, ⟨.sty, .dir, .p10, 0x9F⟩, ⟨.cmpd, .idx, .p10, 0xA3⟩,
   ⟨.cmpy, .idx, .p10, 0xAC⟩, ⟨.ldy, .idx, .p10, 0xAE⟩, ⟨.sty, .idx, .p10, 0xAF⟩, ⟨.cmpd, .ext, .p10, 0xB3⟩,
   ⟨.cmpy, .ext, .p10, 0xBC⟩, ⟨.ldy, .ext, .p10, 0xBE⟩, ⟨.sty, .ext, .p10, 0xBF⟩, ⟨.lds, .imm16, .p10, 0xCE⟩,
   ⟨.lds, .dir, .p10, 0xDE⟩, ⟨.sts, .dir, .p10, 0xDF⟩, ⟨.lds, .idx, .p10, 0xEE⟩, ⟨.sts, .idx, .p10, 0xEF⟩,
   ⟨.lds, .ext, .p10, 0xFE⟩, ⟨.sts, .ext, .p10, 0xFF⟩]

/-- Page 0x11 (R116). -/
def rowsPage11 : List Row :=
  [⟨.swi3, .inh, .p11, 0x3F⟩, ⟨.cmpu, .imm16, .p11, 0x83⟩, ⟨.cmps, .imm16, .p11, 0x8C⟩, ⟨.cmpu, .dir, .p11, 0x93⟩,
   ⟨.cmps, .dir, .p11, 0x9C⟩, ⟨.cmpu, .idx, .p11, 0xA3⟩, ⟨.cmps, .idx, .p11, 0xAC⟩, ⟨.cmpu, .ext, .p11, 0xB3⟩,
   ⟨.cmps, .ext, .p11, 0xBC⟩]

/-- `OPCODE_TABLE` at its default: the 270 rows of `spec/opcode_table.json` (R5 of `00_scope.md`, R110 to R116; log 5). -/
def opcodeTable : List Row := rows00 ++ rows40 ++ rows80 ++ rowsC0 ++ rowsPage10 ++ rowsPage11

/-- `OpFind(opcode, page)` (R142 of `40_fetch_execute.md`): the entry with both keys, or nothing. -/
def opFind (opcode : Byte) (page : Page) : Option Row :=
  opcodeTable.find? fun r => r.opcode == opcode && r.page == page

/-- The row of a mnemonic and a format: the key of the assembler and of the encoder (R105, R503 of `47_encoder.md`). -/
def rowOf (m : Mnemonic) (f : Format) : Option Row :=
  opcodeTable.find? fun r => r.mnemonic == m && r.format == f

/-- The prefix byte as a number: 0, 0x10 or 0x11 (R31 of `10_state.md`). -/
def Page.toByte : Page → Byte
  | .p0 => 0x00
  | .p10 => 0x10
  | .p11 => 0x11

/-- The prefix bytes an instruction of this page begins with (R90, R103). -/
def Page.bytes : Page → List Byte
  | .p0 => []
  | .p10 => [0x10]
  | .p11 => [0x11]

/-! ### Operands from bytes -/

/-- Bits 6:5 of an indexed postbyte (R97). -/
def IdxReg.ofCode (c : BitVec 2) : IdxReg :=
  match c.toNat with
  | 0 => .X
  | 1 => .Y
  | 2 => .U
  | _ => .S

/-- The register of a register-pair code, or the undefined code itself (R101, R119). -/
def PairReg.ofCode (c : BitVec 4) : PairReg :=
  match c.toNat with
  | 0x0 => .reg .D
  | 0x1 => .reg .X
  | 0x2 => .reg .Y
  | 0x3 => .reg .U
  | 0x4 => .reg .S
  | 0x5 => .reg .PC
  | 0x8 => .reg .A
  | 0x9 => .reg .B
  | 0xA => .reg .CC
  | 0xB => .reg .DP
  | _ => .undefined c

/-- Two bytes as a big-endian word, with what follows (R65). -/
def takeWord (k : Word → α) : List Byte → Option (α × Nat)
  | hi :: lo :: _ => some (k (wordOf hi lo), 2)
  | _ => none

/-- One byte, with what follows. -/
def takeByte (k : Byte → α) : List Byte → Option (α × Nat)
  | v :: _ => some (k v, 1)
  | [] => none

/-- The sub-mode of bits 3:0 and the number of extra bytes it takes (R98; an undefined code takes none, R119). -/
def decodeMode (code : BitVec 4) (rest : List Byte) : Option (IdxMode × Nat) :=
  match code.toNat with
  | 0x0 => some (.inc1, 0)
  | 0x1 => some (.inc2, 0)
  | 0x2 => some (.dec1, 0)
  | 0x3 => some (.dec2, 0)
  | 0x4 => some (.zero, 0)
  | 0x5 => some (.accB, 0)
  | 0x6 => some (.accA, 0)
  | 0x8 => takeByte .off8 rest
  | 0x9 => takeWord .off16 rest
  | 0xB => some (.accD, 0)
  | 0xC => takeByte .pcr8 rest
  | 0xD => takeWord .pcr16 rest
  | 0xF => takeWord .abs rest
  | _ => some (.undefined code, 0)

/-- An indexed operand and its length, postbyte included (R97, R104). -/
def decodeIndex : List Byte → Option (Index × Nat)
  | [] => none
  | pb :: rest =>
    let r := IdxReg.ofCode (pb.extractLsb' 5 2)
    if pb.getLsbD 7 then
      (decodeMode (pb.extractLsb' 0 4) rest).map fun (m, n) => (.mode r (pb.getLsbD 4) m, n + 1)
    else some (.off5 r (pb.extractLsb' 0 5), 1)

/-- The operand bytes of a format and how many there are (R91, R104). -/
def decodeOperand (f : Format) (bs : List Byte) : Option (Operand × Nat) :=
  match f with
  | .inh => some (.inh, 0)
  | .imm8 => takeByte .imm8 bs
  | .imm16 => takeWord .imm16 bs
  | .dir => takeByte .dir bs
  | .ext => takeWord .ext bs
  | .idx => (decodeIndex bs).map fun (ix, n) => (.idx ix, n)
  | .rel8 => takeByte .rel8 bs
  | .rel16 => takeWord .rel16 bs
  | .rpair => takeByte (fun pb => .rpair (.ofCode (pb.extractLsb' 4 4)) (.ofCode (pb.extractLsb' 0 4))) bs
  | .rlist => takeByte .rlist bs
  | .pager => some (.pager, 0)

/-! ### An instruction from a mnemonic and an operand -/

def Operand.mem : Operand → Option MemOp
  | .dir lo => some (.dir lo)
  | .ext a => some (.ext a)
  | .idx ix => some (.idx ix)
  | _ => none

def Operand.src8 : Operand → Option Src8
  | .imm8 v => some (.imm v)
  | o => o.mem.map .mem

def Operand.src16 : Operand → Option Src16
  | .imm16 v => some (.imm v)
  | o => o.mem.map .mem

def Operand.index : Operand → Option Index
  | .idx ix => some ix
  | _ => none

def Operand.byte8 : Operand → Option Byte
  | .imm8 v => some v
  | _ => none

def Operand.disp8 : Operand → Option Byte
  | .rel8 d => some d
  | _ => none

def Operand.disp16 : Operand → Option Word
  | .rel16 d => some d
  | _ => none

def Operand.regList : Operand → Option Byte
  | .rlist l => some l
  | _ => none

def Operand.pair : Operand → Option (PairReg × PairReg)
  | .rpair s d => some (s, d)
  | _ => none

def Operand.inherent (o : Operand) (i : Instr) : Option Instr :=
  match o with
  | .inh => some i
  | _ => none

def Operand.prefixOnly (o : Operand) (i : Instr) : Option Instr :=
  match o with
  | .pager => some i
  | _ => none

/-- The instruction of a mnemonic with an operand; nothing when the mnemonic does not admit the operand's format (R105). -/
def Instr.make : Mnemonic → Operand → Option Instr
  | .lda, o => o.src8.map .lda
  | .ldb, o => o.src8.map .ldb
  | .ldd, o => o.src16.map .ldd
  | .ldx, o => o.src16.map .ldx
  | .ldy, o => o.src16.map .ldy
  | .ldu, o => o.src16.map .ldu
  | .lds, o => o.src16.map .lds
  | .sta, o => o.mem.map .sta
  | .stb, o => o.mem.map .stb
  | .std, o => o.mem.map .std
  | .stx, o => o.mem.map .stx
  | .sty, o => o.mem.map .sty
  | .stu, o => o.mem.map .stu
  | .sts, o => o.mem.map .sts
  | .leax, o => o.index.map .leax
  | .leay, o => o.index.map .leay
  | .leas, o => o.index.map .leas
  | .leau, o => o.index.map .leau
  | .tfr, o => o.pair.map fun p => .tfr p.1 p.2
  | .exg, o => o.pair.map fun p => .exg p.1 p.2
  | .adda, o => o.src8.map .adda
  | .addb, o => o.src8.map .addb
  | .adca, o => o.src8.map .adca
  | .adcb, o => o.src8.map .adcb
  | .addd, o => o.src16.map .addd
  | .suba, o => o.src8.map .suba
  | .subb, o => o.src8.map .subb
  | .sbca, o => o.src8.map .sbca
  | .sbcb, o => o.src8.map .sbcb
  | .subd, o => o.src16.map .subd
  | .cmpa, o => o.src8.map .cmpa
  | .cmpb, o => o.src8.map .cmpb
  | .cmpd, o => o.src16.map .cmpd
  | .cmpx, o => o.src16.map .cmpx
  | .cmpy, o => o.src16.map .cmpy
  | .cmpu, o => o.src16.map .cmpu
  | .cmps, o => o.src16.map .cmps
  | .neg, o => o.mem.map .neg
  | .nega, o => o.inherent .nega
  | .negb, o => o.inherent .negb
  | .inc, o => o.mem.map .inc
  | .inca, o => o.inherent .inca
  | .incb, o => o.inherent .incb
  | .dec, o => o.mem.map .dec
  | .deca, o => o.inherent .deca
  | .decb, o => o.inherent .decb
  | .tst, o => o.mem.map .tst
  | .tsta, o => o.inherent .tsta
  | .tstb, o => o.inherent .tstb
  | .clr, o => o.mem.map .clr
  | .clra, o => o.inherent .clra
  | .clrb, o => o.inherent .clrb
  | .mul, o => o.inherent .mul
  | .daa, o => o.inherent .daa
  | .sex, o => o.inherent .sex
  | .abx, o => o.inherent .abx
  | .anda, o => o.src8.map .anda
  | .andb, o => o.src8.map .andb
  | .ora, o => o.src8.map .ora
  | .orb, o => o.src8.map .orb
  | .eora, o => o.src8.map .eora
  | .eorb, o => o.src8.map .eorb
  | .bita, o => o.src8.map .bita
  | .bitb, o => o.src8.map .bitb
  | .com, o => o.mem.map .com
  | .coma, o => o.inherent .coma
  | .comb, o => o.inherent .comb
  | .lsr, o => o.mem.map .lsr
  | .lsra, o => o.inherent .lsra
  | .lsrb, o => o.inherent .lsrb
  | .ror, o => o.mem.map .ror
  | .rora, o => o.inherent .rora
  | .rorb, o => o.inherent .rorb
  | .asr, o => o.mem.map .asr
  | .asra, o => o.inherent .asra
  | .asrb, o => o.inherent .asrb
  | .lsl, o => o.mem.map .lsl
  | .lsla, o => o.inherent .lsla
  | .lslb, o => o.inherent .lslb
  | .rol, o => o.mem.map .rol
  | .rola, o => o.inherent .rola
  | .rolb, o => o.inherent .rolb
  | .andcc, o => o.byte8.map .andcc
  | .orcc, o => o.byte8.map .orcc
  | .bra, o => o.disp8.map .bra
  | .brn, o => o.disp8.map .brn
  | .bhi, o => o.disp8.map .bhi
  | .bls, o => o.disp8.map .bls
  | .bcc, o => o.disp8.map .bcc
  | .bcs, o => o.disp8.map .bcs
  | .bne, o => o.disp8.map .bne
  | .beq, o => o.disp8.map .beq
  | .bvc, o => o.disp8.map .bvc
  | .bvs, o => o.disp8.map .bvs
  | .bpl, o => o.disp8.map .bpl
  | .bmi, o => o.disp8.map .bmi
  | .bge, o => o.disp8.map .bge
  | .blt, o => o.disp8.map .blt
  | .bgt, o => o.disp8.map .bgt
  | .ble, o => o.disp8.map .ble
  | .lbra, o => o.disp16.map .lbra
  | .lbrn, o => o.disp16.map .lbrn
  | .lbhi, o => o.disp16.map .lbhi
  | .lbls, o => o.disp16.map .lbls
  | .lbcc, o => o.disp16.map .lbcc
  | .lbcs, o => o.disp16.map .lbcs
  | .lbne, o => o.disp16.map .lbne
  | .lbeq, o => o.disp16.map .lbeq
  | .lbvc, o => o.disp16.map .lbvc
  | .lbvs, o => o.disp16.map .lbvs
  | .lbpl, o => o.disp16.map .lbpl
  | .lbmi, o => o.disp16.map .lbmi
  | .lbge, o => o.disp16.map .lbge
  | .lblt, o => o.disp16.map .lblt
  | .lbgt, o => o.disp16.map .lbgt
  | .lble, o => o.disp16.map .lble
  | .bsr, o => o.disp8.map .bsr
  | .lbsr, o => o.disp16.map .lbsr
  | .jsr, o => o.mem.map .jsr
  | .rts, o => o.inherent .rts
  | .jmp, o => o.mem.map .jmp
  | .pshs, o => o.regList.map .pshs
  | .puls, o => o.regList.map .puls
  | .pshu, o => o.regList.map .pshu
  | .pulu, o => o.regList.map .pulu
  | .swi, o => o.inherent .swi
  | .swi2, o => o.inherent .swi2
  | .swi3, o => o.inherent .swi3
  | .rti, o => o.inherent .rti
  | .cwai, o => o.byte8.map .cwai
  | .sync, o => o.inherent .sync
  | .nop, o => o.inherent .nop
  | .prefix10, o => o.prefixOnly .prefix10
  | .prefix11, o => o.prefixOnly .prefix11

/-! ### The decoder -/

/-- What one opcode lookup finds at a list of bytes. -/
inductive Entry where
  /-- An instruction, its opcode byte, and its length from that byte on. -/
  | found (i : Instr) (opcode : Byte) (len : Nat)
  /-- No table entry for this byte (R142). -/
  | notFound (opcode : Byte)
  /-- The bytes end inside the instruction. -/
  | short
  deriving DecidableEq, Repr

/-- One lookup on a page (R142, R104): the opcode byte, then the operand bytes of its format. -/
def decodeEntry (page : Page) : List Byte → Entry
  | [] => .short
  | op :: rest =>
    match opFind op page with
    | none => .notFound op
    | some row =>
      match decodeOperand row.format rest with
      | none => .short
      | some (o, n) =>
        match Instr.make row.mnemonic o with
        | none => .notFound op
        | some i => .found i op (n + 1)

/-- The page a prefix entry selects (R103, R168 of `40_fetch_execute.md`); `p0` for every other instruction. -/
def Instr.selectsPage : Instr → Page
  | .prefix10 => .p10
  | .prefix11 => .p11
  | _ => .p0

/-- What the decoder says of a list of bytes. -/
inductive Decoded where
  /-- An instruction and its whole length, prefix included. -/
  | instr (i : Instr) (len : Nat)
  /-- No table entry for this opcode on this page; the length is 1, or 2 with a prefix (R104, R141). -/
  | illegal (opcode : Byte) (page : Page) (len : Nat)
  /-- The bytes end inside the instruction. -/
  | short
  deriving DecidableEq, Repr

/-- The decoder (R104, R140, R561 of `48_decoder.md`): one lookup on page 0, and after a prefix entry one more on its page. -/
def decode (bs : List Byte) : Decoded :=
  match decodeEntry .p0 bs with
  | .short => .short
  | .notFound op => .illegal op .p0 1
  | .found i _ n =>
    if i.selectsPage = .p0 then .instr i n
    else
      match decodeEntry i.selectsPage (bs.drop n) with
      | .short => .short
      | .notFound op => .illegal op i.selectsPage (n + 1)
      | .found j _ k => .instr j (n + k)

/-! ### The encoder -/

/-- Bits 6:5 of an indexed postbyte (R97). -/
def IdxReg.code : IdxReg → BitVec 2
  | .X => 0
  | .Y => 1
  | .U => 2
  | .S => 3

/-- The code of a register in a register-pair postbyte (R101). -/
def Reg.pairCode : Reg → BitVec 4
  | .D => 0x0
  | .X => 0x1
  | .Y => 0x2
  | .U => 0x3
  | .S => 0x4
  | .PC => 0x5
  | .A => 0x8
  | .B => 0x9
  | .CC => 0xA
  | .DP => 0xB

def PairReg.code : PairReg → BitVec 4
  | .reg r => r.pairCode
  | .undefined c => c

/-- A word as two bytes, the high byte first (R65). -/
def wordBytes (w : Word) : List Byte := [hiByte w, loByte w]

/-- The code of a sub-mode, bits 3:0 of the postbyte (R98). -/
def IdxMode.code : IdxMode → BitVec 4
  | .inc1 => 0x0
  | .inc2 => 0x1
  | .dec1 => 0x2
  | .dec2 => 0x3
  | .zero => 0x4
  | .accB => 0x5
  | .accA => 0x6
  | .off8 _ => 0x8
  | .off16 _ => 0x9
  | .accD => 0xB
  | .pcr8 _ => 0xC
  | .pcr16 _ => 0xD
  | .abs _ => 0xF
  | .undefined c => c

/-- The bytes after the postbyte (R98, column "extra"). -/
def IdxMode.extra : IdxMode → List Byte
  | .off8 n => [n]
  | .off16 n => wordBytes n
  | .pcr8 n => [n]
  | .pcr16 n => wordBytes n
  | .abs w => wordBytes w
  | _ => []

/-- The postbyte and its extra bytes (R97, R98). -/
def Index.bytes : Index → List Byte
  | .off5 r n => [0#1 ++ r.code ++ n]
  | .mode r ind m => (1#1 ++ r.code ++ BitVec.ofBool ind ++ m.code) :: m.extra

def MemOp.operand : MemOp → Operand
  | .dir lo => .dir lo
  | .ext a => .ext a
  | .idx ix => .idx ix

def Src8.operand : Src8 → Operand
  | .imm v => .imm8 v
  | .mem m => m.operand

def Src16.operand : Src16 → Operand
  | .imm v => .imm16 v
  | .mem m => m.operand

def Operand.format : Operand → Format
  | .inh => .inh
  | .imm8 _ => .imm8
  | .imm16 _ => .imm16
  | .dir _ => .dir
  | .ext _ => .ext
  | .idx _ => .idx
  | .rel8 _ => .rel8
  | .rel16 _ => .rel16
  | .rpair _ _ => .rpair
  | .rlist _ => .rlist
  | .pager => .pager

/-- The bytes after the opcode byte (R91). -/
def Operand.bytes : Operand → List Byte
  | .inh => []
  | .imm8 v => [v]
  | .imm16 v => wordBytes v
  | .dir lo => [lo]
  | .ext a => wordBytes a
  | .idx ix => ix.bytes
  | .rel8 d => [d]
  | .rel16 d => wordBytes d
  | .rpair s d => [s.code ++ d.code]
  | .rlist l => [l]
  | .pager => []

def Instr.mnemonic : Instr → Mnemonic
  | .lda _ => .lda
  | .ldb _ => .ldb
  | .ldd _ => .ldd
  | .ldx _ => .ldx
  | .ldy _ => .ldy
  | .ldu _ => .ldu
  | .lds _ => .lds
  | .sta _ => .sta
  | .stb _ => .stb
  | .std _ => .std
  | .stx _ => .stx
  | .sty _ => .sty
  | .stu _ => .stu
  | .sts _ => .sts
  | .leax _ => .leax
  | .leay _ => .leay
  | .leas _ => .leas
  | .leau _ => .leau
  | .tfr _ _ => .tfr
  | .exg _ _ => .exg
  | .adda _ => .adda
  | .addb _ => .addb
  | .adca _ => .adca
  | .adcb _ => .adcb
  | .addd _ => .addd
  | .suba _ => .suba
  | .subb _ => .subb
  | .sbca _ => .sbca
  | .sbcb _ => .sbcb
  | .subd _ => .subd
  | .cmpa _ => .cmpa
  | .cmpb _ => .cmpb
  | .cmpd _ => .cmpd
  | .cmpx _ => .cmpx
  | .cmpy _ => .cmpy
  | .cmpu _ => .cmpu
  | .cmps _ => .cmps
  | .neg _ => .neg
  | .nega => .nega
  | .negb => .negb
  | .inc _ => .inc
  | .inca => .inca
  | .incb => .incb
  | .dec _ => .dec
  | .deca => .deca
  | .decb => .decb
  | .tst _ => .tst
  | .tsta => .tsta
  | .tstb => .tstb
  | .clr _ => .clr
  | .clra => .clra
  | .clrb => .clrb
  | .mul => .mul
  | .daa => .daa
  | .sex => .sex
  | .abx => .abx
  | .anda _ => .anda
  | .andb _ => .andb
  | .ora _ => .ora
  | .orb _ => .orb
  | .eora _ => .eora
  | .eorb _ => .eorb
  | .bita _ => .bita
  | .bitb _ => .bitb
  | .com _ => .com
  | .coma => .coma
  | .comb => .comb
  | .lsr _ => .lsr
  | .lsra => .lsra
  | .lsrb => .lsrb
  | .ror _ => .ror
  | .rora => .rora
  | .rorb => .rorb
  | .asr _ => .asr
  | .asra => .asra
  | .asrb => .asrb
  | .lsl _ => .lsl
  | .lsla => .lsla
  | .lslb => .lslb
  | .rol _ => .rol
  | .rola => .rola
  | .rolb => .rolb
  | .andcc _ => .andcc
  | .orcc _ => .orcc
  | .bra _ => .bra
  | .brn _ => .brn
  | .bhi _ => .bhi
  | .bls _ => .bls
  | .bcc _ => .bcc
  | .bcs _ => .bcs
  | .bne _ => .bne
  | .beq _ => .beq
  | .bvc _ => .bvc
  | .bvs _ => .bvs
  | .bpl _ => .bpl
  | .bmi _ => .bmi
  | .bge _ => .bge
  | .blt _ => .blt
  | .bgt _ => .bgt
  | .ble _ => .ble
  | .lbra _ => .lbra
  | .lbrn _ => .lbrn
  | .lbhi _ => .lbhi
  | .lbls _ => .lbls
  | .lbcc _ => .lbcc
  | .lbcs _ => .lbcs
  | .lbne _ => .lbne
  | .lbeq _ => .lbeq
  | .lbvc _ => .lbvc
  | .lbvs _ => .lbvs
  | .lbpl _ => .lbpl
  | .lbmi _ => .lbmi
  | .lbge _ => .lbge
  | .lblt _ => .lblt
  | .lbgt _ => .lbgt
  | .lble _ => .lble
  | .bsr _ => .bsr
  | .lbsr _ => .lbsr
  | .jsr _ => .jsr
  | .rts => .rts
  | .jmp _ => .jmp
  | .pshs _ => .pshs
  | .puls _ => .puls
  | .pshu _ => .pshu
  | .pulu _ => .pulu
  | .swi => .swi
  | .swi2 => .swi2
  | .swi3 => .swi3
  | .rti => .rti
  | .cwai _ => .cwai
  | .sync => .sync
  | .nop => .nop
  | .prefix10 => .prefix10
  | .prefix11 => .prefix11

def Instr.operand : Instr → Operand
  | .lda src => src.operand
  | .ldb src => src.operand
  | .ldd src => src.operand
  | .ldx src => src.operand
  | .ldy src => src.operand
  | .ldu src => src.operand
  | .lds src => src.operand
  | .sta m => m.operand
  | .stb m => m.operand
  | .std m => m.operand
  | .stx m => m.operand
  | .sty m => m.operand
  | .stu m => m.operand
  | .sts m => m.operand
  | .leax ix => .idx ix
  | .leay ix => .idx ix
  | .leas ix => .idx ix
  | .leau ix => .idx ix
  | .tfr src dst => .rpair src dst
  | .exg src dst => .rpair src dst
  | .adda src => src.operand
  | .addb src => src.operand
  | .adca src => src.operand
  | .adcb src => src.operand
  | .addd src => src.operand
  | .suba src => src.operand
  | .subb src => src.operand
  | .sbca src => src.operand
  | .sbcb src => src.operand
  | .subd src => src.operand
  | .cmpa src => src.operand
  | .cmpb src => src.operand
  | .cmpd src => src.operand
  | .cmpx src => src.operand
  | .cmpy src => src.operand
  | .cmpu src => src.operand
  | .cmps src => src.operand
  | .neg m => m.operand
  | .nega => .inh
  | .negb => .inh
  | .inc m => m.operand
  | .inca => .inh
  | .incb => .inh
  | .dec m => m.operand
  | .deca => .inh
  | .decb => .inh
  | .tst m => m.operand
  | .tsta => .inh
  | .tstb => .inh
  | .clr m => m.operand
  | .clra => .inh
  | .clrb => .inh
  | .mul => .inh
  | .daa => .inh
  | .sex => .inh
  | .abx => .inh
  | .anda src => src.operand
  | .andb src => src.operand
  | .ora src => src.operand
  | .orb src => src.operand
  | .eora src => src.operand
  | .eorb src => src.operand
  | .bita src => src.operand
  | .bitb src => src.operand
  | .com m => m.operand
  | .coma => .inh
  | .comb => .inh
  | .lsr m => m.operand
  | .lsra => .inh
  | .lsrb => .inh
  | .ror m => m.operand
  | .rora => .inh
  | .rorb => .inh
  | .asr m => m.operand
  | .asra => .inh
  | .asrb => .inh
  | .lsl m => m.operand
  | .lsla => .inh
  | .lslb => .inh
  | .rol m => m.operand
  | .rola => .inh
  | .rolb => .inh
  | .andcc mask => .imm8 mask
  | .orcc mask => .imm8 mask
  | .bra disp => .rel8 disp
  | .brn disp => .rel8 disp
  | .bhi disp => .rel8 disp
  | .bls disp => .rel8 disp
  | .bcc disp => .rel8 disp
  | .bcs disp => .rel8 disp
  | .bne disp => .rel8 disp
  | .beq disp => .rel8 disp
  | .bvc disp => .rel8 disp
  | .bvs disp => .rel8 disp
  | .bpl disp => .rel8 disp
  | .bmi disp => .rel8 disp
  | .bge disp => .rel8 disp
  | .blt disp => .rel8 disp
  | .bgt disp => .rel8 disp
  | .ble disp => .rel8 disp
  | .lbra disp => .rel16 disp
  | .lbrn disp => .rel16 disp
  | .lbhi disp => .rel16 disp
  | .lbls disp => .rel16 disp
  | .lbcc disp => .rel16 disp
  | .lbcs disp => .rel16 disp
  | .lbne disp => .rel16 disp
  | .lbeq disp => .rel16 disp
  | .lbvc disp => .rel16 disp
  | .lbvs disp => .rel16 disp
  | .lbpl disp => .rel16 disp
  | .lbmi disp => .rel16 disp
  | .lbge disp => .rel16 disp
  | .lblt disp => .rel16 disp
  | .lbgt disp => .rel16 disp
  | .lble disp => .rel16 disp
  | .bsr disp => .rel8 disp
  | .lbsr disp => .rel16 disp
  | .jsr m => m.operand
  | .rts => .inh
  | .jmp m => m.operand
  | .pshs list => .rlist list
  | .puls list => .rlist list
  | .pshu list => .rlist list
  | .pulu list => .rlist list
  | .swi => .inh
  | .swi2 => .inh
  | .swi3 => .inh
  | .rti => .inh
  | .cwai mask => .imm8 mask
  | .sync => .inh
  | .nop => .inh
  | .prefix10 => .pager
  | .prefix11 => .pager

/-- The bytes of a row with an operand: the prefix if any, the opcode byte, the operand bytes (R90, R503). -/
def Row.emit (r : Row) (o : Operand) : List Byte := r.page.bytes ++ r.opcode :: o.bytes

/-- The encoder: the bytes of an instruction (R90, R91). -/
def encode (i : Instr) : List Byte :=
  match rowOf i.mnemonic i.operand.format with
  | some r => r.emit i.operand
  | none => []

/-! ### The table's numbering of an instruction's bits -/

/-- Byte `k` of `w`, counted from its least significant byte. -/
def byteOfNat (w k : Nat) : Byte := BitVec.ofNat 8 (w / 2 ^ (8 * k))

/-- The five bytes of an instruction from its bits as the opcode table numbers them. A row of page 0x10 or 0x11 has its
prefix in bits 15:8 and its opcode in bits 7:0 (`spec/INDEX.md`); everywhere else the first byte is bits 7:0 (log 11). -/
def tableBytes (nbits w : Nat) : List Byte :=
  let b := byteOfNat w
  if nbits ≥ 16 ∧ (b 1 = 0x10 ∨ b 1 = 0x11) then [b 1, b 0, b 2, b 3, b 4] else [b 0, b 1, b 2, b 3, b 4]

/-- The instruction the decoder reads from an instruction's bits; for the bits of a lone prefix row, whose next byte has
no entry on its page, the prefix entry that the first lookup finds (R141, R490; log 12). -/
def decodeTableWord (nbits w : Nat) : Option Instr :=
  match decode (tableBytes nbits (w % 2 ^ nbits)) with
  | .instr i _ => some i
  | .illegal _ .p10 _ => if nbits ≤ 8 then some .prefix10 else none
  | .illegal _ .p11 _ => if nbits ≤ 8 then some .prefix11 else none
  | .illegal _ .p0 _ => none
  | .short => none

end Sys2Proof
end

