-- ==== Sys2Proof/Machine/Text.lean ====
section
/-! DEFINITION. Source text: white space, tokens, numbers, and the names of mnemonics, registers and directives
(`47_encoder.md`, `48_decoder.md`). -/

namespace Sys2Proof.Machine

/-! ### Characters and pieces of text -/

/-- White space between tokens (log 21). -/
def isBlank (c : Char) : Bool := c == ' ' || c == '\t' || c == '\r'

def trimLeft (t : Text) : Text := t.dropWhile isBlank

def trim (t : Text) : Text := (trimLeft (trimLeft t).reverse).reverse

/-- Upper case: names are case-insensitive, stored upper (R505). -/
def upper (t : Text) : Text := t.map Char.toUpper

/-- The first token and what follows it, trimmed on the left. -/
def takeToken (t : Text) : Text × Text :=
  (t.takeWhile fun c => !isBlank c, trimLeft (t.dropWhile fun c => !isBlank c))

/-- Put a character at the head of the first piece. -/
def consPiece (c : Char) : List Text → List Text
  | [] => [[c]]
  | p :: ps => (c :: p) :: ps

/-- The pieces between separators. -/
def splitOn (sep : Char) : Text → List Text
  | [] => [[]]
  | c :: cs => if c = sep then [] :: splitOn sep cs else consPiece c (splitOn sep cs)

/-- The pieces between commas; the character of a literal `'c` is no separator (R530, R546, R547; log 21). -/
def splitExprs : Text → List Text
  | [] => [[]]
  | ',' :: cs => [] :: splitExprs cs
  | '\'' :: c :: cs => consPiece '\'' (consPiece c (splitExprs cs))
  | c :: cs => consPiece c (splitExprs cs)

/-- Texts joined by commas. -/
def commaJoin : List Text → Text
  | [] => []
  | [t] => t
  | t :: ts => t ++ ',' :: commaJoin ts

/-- The text before and after the first separator. -/
def takeUntil (sep : Char) (t : Text) : Option (Text × Text) :=
  if t.contains sep then some (t.takeWhile (· != sep), (t.dropWhile (· != sep)).drop 1) else none

/-- The text before and after the last comma, whatever stands before it (R520). -/
def splitLast (t : Text) : Option (Text × Text) :=
  (takeUntil ',' t.reverse).map fun p => (p.2.reverse, p.1.reverse)

/-- Comment stripping (R500): a `;` or `*` at the start of a token ends the line, outside double-quoted strings. -/
def stripFrom (inString tokenStart : Bool) : Text → Text
  | [] => []
  | c :: cs =>
    if inString then c :: stripFrom (c != '"') false cs
    else if tokenStart && (c == ';' || c == '*') then []
    else c :: stripFrom (c == '"') (isBlank c) cs

def stripComment (line : Text) : Text := stripFrom false true line

def isLetter (c : Char) : Bool := c.isAlpha || c == '_'

/-- A letter or `_`, then letters, digits or `_` (R505, D44). -/
def isIdentifier : Text → Bool
  | [] => false
  | c :: cs => isLetter c && cs.all fun d => isLetter d || d.isDigit

/-! ### Numbers -/

/-- The value of a digit in any radix up to 16 (R530). DESIGN CHOICE: a hexadecimal digit may be in either case (log 21). -/
def digitValue (c : Char) : Option Nat :=
  if c.isDigit then some (c.toNat - 48)
  else if 'a' ≤ c ∧ c ≤ 'f' then some (c.toNat - 87)
  else if 'A' ≤ c ∧ c ≤ 'F' then some (c.toNat - 55)
  else none

/-- The leading digits of a text in a radix: value, how many, and the rest (R530). -/
def takeDigits (radix value count : Nat) : Text → Nat × Nat × Text
  | [] => (value, count, [])
  | c :: cs =>
    match digitValue c with
    | some d => if d < radix then takeDigits radix (value * radix + d) (count + 1) cs else (value, count, c :: cs)
    | none => (value, count, c :: cs)

/-- One upper-case hexadecimal digit. -/
def hexDigit (n : Nat) : Char := if n % 16 < 10 then Char.ofNat (48 + n % 16) else Char.ofNat (55 + n % 16)

/-- `$hh` (R564). -/
def hex2 (v : Byte) : Text := ['$', hexDigit (v.toNat / 16), hexDigit v.toNat]

/-- `$hhhh` (R564). -/
def hex4 (w : Word) : Text :=
  ['$', hexDigit (w.toNat / 4096), hexDigit (w.toNat / 256), hexDigit (w.toNat / 16), hexDigit w.toNat]

/-- A signed number in decimal (R564). -/
def decimal (n : Int) : Text := if n < 0 then '-' :: Nat.toDigits 10 n.natAbs else Nat.toDigits 10 n.natAbs

/-! ### Names -/

/-- The canonical spelling of a mnemonic (R117 of `30_encoding.md`, R573). -/
def mnemonicName : Mnemonic → Text
  | .lda => "LDA".toList
  | .ldb => "LDB".toList
  | .ldd => "LDD".toList
  | .ldx => "LDX".toList
  | .ldy => "LDY".toList
  | .ldu => "LDU".toList
  | .lds => "LDS".toList
  | .sta => "STA".toList
  | .stb => "STB".toList
  | .std => "STD".toList
  | .stx => "STX".toList
  | .sty => "STY".toList
  | .stu => "STU".toList
  | .sts => "STS".toList
  | .leax => "LEAX".toList
  | .leay => "LEAY".toList
  | .leas => "LEAS".toList
  | .leau => "LEAU".toList
  | .tfr => "TFR".toList
  | .exg => "EXG".toList
  | .adda => "ADDA".toList
  | .addb => "ADDB".toList
  | .adca => "ADCA".toList
  | .adcb => "ADCB".toList
  | .addd => "ADDD".toList
  | .suba => "SUBA".toList
  | .subb => "SUBB".toList
  | .sbca => "SBCA".toList
  | .sbcb => "SBCB".toList
  | .subd => "SUBD".toList
  | .cmpa => "CMPA".toList
  | .cmpb => "CMPB".toList
  | .cmpd => "CMPD".toList
  | .cmpx => "CMPX".toList
  | .cmpy => "CMPY".toList
  | .cmpu => "CMPU".toList
  | .cmps => "CMPS".toList
  | .neg => "NEG".toList
  | .nega => "NEGA".toList
  | .negb => "NEGB".toList
  | .inc => "INC".toList
  | .inca => "INCA".toList
  | .incb => "INCB".toList
  | .dec => "DEC".toList
  | .deca => "DECA".toList
  | .decb => "DECB".toList
  | .tst => "TST".toList
  | .tsta => "TSTA".toList
  | .tstb => "TSTB".toList
  | .clr => "CLR".toList
  | .clra => "CLRA".toList
  | .clrb => "CLRB".toList
  | .mul => "MUL".toList
  | .daa => "DAA".toList
  | .sex => "SEX".toList
  | .abx => "ABX".toList
  | .anda => "ANDA".toList
  | .andb => "ANDB".toList
  | .ora => "ORA".toList
  | .orb => "ORB".toList
  | .eora => "EORA".toList
  | .eorb => "EORB".toList
  | .bita => "BITA".toList
  | .bitb => "BITB".toList
  | .com => "COM".toList
  | .coma => "COMA".toList
  | .comb => "COMB".toList
  | .lsr => "LSR".toList
  | .lsra => "LSRA".toList
  | .lsrb => "LSRB".toList
  | .ror => "ROR".toList
  | .rora => "RORA".toList
  | .rorb => "RORB".toList
  | .asr => "ASR".toList
  | .asra => "ASRA".toList
  | .asrb => "ASRB".toList
  | .lsl => "LSL".toList
  | .lsla => "LSLA".toList
  | .lslb => "LSLB".toList
  | .rol => "ROL".toList
  | .rola => "ROLA".toList
  | .rolb => "ROLB".toList
  | .andcc => "ANDCC".toList
  | .orcc => "ORCC".toList
  | .bra => "BRA".toList
  | .brn => "BRN".toList
  | .bhi => "BHI".toList
  | .bls => "BLS".toList
  | .bcc => "BCC".toList
  | .bcs => "BCS".toList
  | .bne => "BNE".toList
  | .beq => "BEQ".toList
  | .bvc => "BVC".toList
  | .bvs => "BVS".toList
  | .bpl => "BPL".toList
  | .bmi => "BMI".toList
  | .bge => "BGE".toList
  | .blt => "BLT".toList
  | .bgt => "BGT".toList
  | .ble => "BLE".toList
  | .lbra => "LBRA".toList
  | .lbrn => "LBRN".toList
  | .lbhi => "LBHI".toList
  | .lbls => "LBLS".toList
  | .lbcc => "LBCC".toList
  | .lbcs => "LBCS".toList
  | .lbne => "LBNE".toList
  | .lbeq => "LBEQ".toList
  | .lbvc => "LBVC".toList
  | .lbvs => "LBVS".toList
  | .lbpl => "LBPL".toList
  | .lbmi => "LBMI".toList
  | .lbge => "LBGE".toList
  | .lblt => "LBLT".toList
  | .lbgt => "LBGT".toList
  | .lble => "LBLE".toList
  | .bsr => "BSR".toList
  | .lbsr => "LBSR".toList
  | .jsr => "JSR".toList
  | .rts => "RTS".toList
  | .jmp => "JMP".toList
  | .pshs => "PSHS".toList
  | .puls => "PULS".toList
  | .pshu => "PSHU".toList
  | .pulu => "PULU".toList
  | .swi => "SWI".toList
  | .swi2 => "SWI2".toList
  | .swi3 => "SWI3".toList
  | .rti => "RTI".toList
  | .cwai => "CWAI".toList
  | .sync => "SYNC".toList
  | .nop => "NOP".toList
  | .prefix10 => "PREFIX10".toList
  | .prefix11 => "PREFIX11".toList

/-- The canonical name of an accepted second spelling (R117, D34). -/
def unalias (t : Text) : Text :=
  match [("ASL", "LSL"), ("ASLA", "LSLA"), ("ASLB", "LSLB"), ("BHS", "BCC"), ("BLO", "BCS"), ("LBHS", "LBCC"),
    ("LBLO", "LBCS")].find? fun p => p.1.toList == t with
  | some p => p.2.toList
  | none => t

/-- The mnemonic an upper-case token names; a page-prefix entry has no assembler mnemonic (R503, R490). -/
def mnemonicOf (t : Text) : Option Mnemonic :=
  (opcodeTable.find? fun r => mnemonicName r.mnemonic == unalias t && r.format != .pager).map (·.mnemonic)

/-- The directives (R125 of `30_encoding.md`, R545 to R554). -/
inductive Directive where
  | db | dw | fill | org | ds | setdp | equ | const | var | stop
  deriving DecidableEq, Repr

/-- The directive an upper-case token names. -/
def directiveOf (t : Text) : Option Directive :=
  ([("DB", .db), ("FCB", .db), ("FCC", .db), ("DW", .dw), ("FDB", .dw), ("FILL", .fill), ("ORG", .org), ("DS", .ds),
    ("RMB", .ds), ("SETDP", .setdp), ("DIRECT", .setdp), ("EQU", .equ), ("=", .equ), ("CONST", .const), ("VAR", .var),
    ("END", .stop)].find? fun (p : String × Directive) => p.1.toList == t).map (·.2)

/-- The name of a register. -/
def regName : Reg → Text
  | .A => ['A']
  | .B => ['B']
  | .D => ['D']
  | .X => ['X']
  | .Y => ['Y']
  | .U => ['U']
  | .S => ['S']
  | .PC => ['P', 'C']
  | .DP => ['D', 'P']
  | .CC => ['C', 'C']

/-- The register an upper-case token names. -/
def regOfName (t : Text) : Option Reg :=
  [Reg.A, .B, .D, .X, .Y, .U, .S, .PC, .DP, .CC].find? fun r => regName r == t

/-- The name of an index register. -/
def idxRegName : IdxReg → Text
  | .X => ['X']
  | .Y => ['Y']
  | .U => ['U']
  | .S => ['S']

end Sys2Proof.Machine
end

