-- ==== Sys2Proof/Machine/Table.lean ====
section
/-! DEFINITION. The opcode table as Instruction records (R37 of `10_state.md`), and its two lookups: by opcode and page for the
engine and the decoder (R142), by name and format for the encoder (R503 of `47_encoder.md`). -/

namespace Sys2Proof

/-- The Instruction record of a row of the default table: its program is the effect that the row's rule gives (R37, R143). -/
def Row.entry (r : Row) : TableEntry where
  mnemonic := Machine.mnemonicName r.mnemonic
  format := r.format
  page := r.page
  opcode := r.opcode
  microcode := if r.format = .pager then [.page] else [.meaning r.mnemonic]

/-- The Instruction records of a table. -/
def OpcodeTable.entries : OpcodeTable → List TableEntry
  | .standard => opcodeTable.map Row.entry
  | .custom es => es

/-- `OpFind(opcode, page)` over any table (R142): the first record with both keys. -/
def findEntry (es : List TableEntry) (opcode : Byte) (page : Page) : Option TableEntry :=
  es.find? fun e => e.opcode == opcode && e.page == page

/-- The page a prefix byte selects (R31, R168): 0x10 and 0x11 are the only ones. -/
def Page.ofByte (b : Byte) : Option Page := if b = 0x10 then some .p10 else if b = 0x11 then some .p11 else none

/-- The capability mask of a record (R37, R105 of `30_encoding.md`). -/
def TableEntry.addressingMask (e : TableEntry) : List Capability := e.format.capabilities


/-! ### The encoder's key -/

/-- What a mnemonic token names: a mnemonic of the default table, or a name that a custom table gives a record. -/
inductive OpName where
  | core (m : Mnemonic)
  | own (name : Text)
  deriving DecidableEq, Repr

/-- The spelling of a name. -/
def OpName.text : OpName → Text
  | .core m => Machine.mnemonicName m
  | .own t => t

/-- The prefix and opcode bytes of the record with a name and a format (R503). -/
def OpcodeTable.form : OpcodeTable → OpName → Format → Option (List Byte)
  | .standard, .core m, f => (rowOf m f).map fun r => r.page.bytes ++ [r.opcode]
  | .standard, .own _, _ => none
  | .custom es, n, f =>
    (es.find? fun e => Machine.upper e.mnemonic == n.text && e.format == f).map fun e => e.page.bytes ++ [e.opcode]

/-- The name an upper-case token has in a table, aliases of R117 included; a prefix record has none (R503, R490). DESIGN CHOICE: a
custom table's own spelling goes before an alias (log 34). -/
def OpcodeTable.nameOf : OpcodeTable → Text → Option OpName
  | .standard, t => (Machine.mnemonicOf t).map .core
  | .custom es, t =>
    let named (n : Text) : Option OpName :=
      (es.find? fun e => Machine.upper e.mnemonic == n && e.format != .pager).map fun _ => .own n
    (named t).or (named (Machine.unalias t))

/-- A known mnemonic: of the table, an alias, or a directive (R502). -/
def OpcodeTable.knows (table : OpcodeTable) (t : Text) : Bool :=
  (table.nameOf (Machine.upper t)).isSome || (Machine.directiveOf (Machine.upper t)).isSome

end Sys2Proof
end

