-- ==== Sys2Proof/Machine/Microcode.lean ====
section
/-! DEFINITION. The microcode interpreter (R143 to R175 of `40_fetch_execute.md`). -/

namespace Sys2Proof.Machine

/-- The bytes at PC that one lookup can consume: an opcode byte and at most three operand bytes (R90, R91). -/
def State.fetchWindow (s : State) : List Byte :=
  [s.peek s.pc, s.peek (s.pc + 1), s.peek (s.pc + 2), s.peek (s.pc + 3)]

/-- `Fetch8()` (R150): the byte at PC, and PC past it. -/
def State.fetch8 (s : State) : Byte × State := (s.peek s.pc, s.advance 1)

/-- `Fetch16()` (R151). -/
def State.fetch16 (s : State) : Word × State := (s.memRead16 s.pc, s.advance 2)

/-- A value into a scratch register. -/
def State.setScratch (s : State) (d : Scratch) (v : Word) : State :=
  match d with
  | .r1 => { s with r1 := v }
  | .r2 => { s with r2 := v }

/-- An ALU primitive (R205 to R228 of `41_alu_flag_unit.md`). -/
def State.alu (s : State) : AluOp → State
  | .add8 => s.add8
  | .adc8 => s.adc8
  | .add16 => s.add16
  | .sub8 => s.sub8
  | .sbc8 => s.sbc8
  | .sub16 => s.sub16
  | .neg8 => s.neg8
  | .and8 => s.and8
  | .or8 => s.or8
  | .eor8 => s.eor8
  | .com8 => s.com8
  | .inc8 => s.inc8
  | .dec8 => s.dec8
  | .tst8 => s.tst8
  | .tst16 => s.tst16
  | .clr8 => s.clr8
  | .lsr8 => s.lsr8
  | .ror8 => s.ror8
  | .asr8 => s.asr8
  | .lsl8 => s.lsl8
  | .rol8 => s.rol8
  | .mul => s.mul
  | .abx => s.abx
  | .daa => s.daa

/-- The `swi` primitive by its operand (R172, R614): only SWI sets the masks. -/
def State.swiToken (s : State) : SwiKind → State
  | .swi => s.swi true s.cfg.vectors.swi
  | .swi2 => s.swi false s.cfg.vectors.swi2
  | .swi3 => s.swi false s.cfg.vectors.swi3

/-- `indx` with its fetches (R156): the postbyte and its extra bytes, then EA; an undefined code raises after the postbyte
(R119). -/
def State.fetchIndx (s : State) : State ⊕ Outcome :=
  match decodeIndex s.fetchWindow with
  | none => .inr s.raiseIllegal
  | some (ix, n) =>
    match (s.advance n).indx ix with
    | some u => .inl u
    | none => .inr (s.advance n).raiseIllegal

/-- `rgop` with its fetch (R165), then the transfer of TFR or the exchange of EXG (R290, R291). -/
def State.fetchRgop (s : State) (exchange : Bool) : State ⊕ Outcome :=
  let (pb, u) := s.fetch8
  match regOf (PairReg.ofCode (pb.extractLsb' 4 4)), regOf (PairReg.ofCode (pb.extractLsb' 0 4)) with
  | some p, some q => .inl (if exchange then (((u.ld1 p).ld2 q).st2 p).st1 q else (u.ld1 p).st1 q)
  | _, _ => .inr u.raiseIllegal

/-- The whole effect of a mnemonic, its operand bytes read by the entry's format; a pair no rule gives an effect raises. -/
def State.runMeaning (s : State) (f : Format) (m : Mnemonic) : Outcome :=
  match decodeOperand f s.fetchWindow with
  | none => s.raiseIllegal
  | some (o, n) =>
    match Instr.make m o with
    | none => s.raiseIllegal
    | some i => exec i (s.advance n)

/-- `page` (R168): the prefix byte just fetched becomes the page; a byte that is no prefix of R103 raises (log 33). -/
def State.recordPrefix (s : State) : State ⊕ Outcome :=
  match Page.ofByte s.op with
  | some p => .inl (s.recordPage p)
  | none => .inr s.raiseIllegal

/-- One token (R143): the state the next token runs in, or the end of the program. DESIGN CHOICE: a program of a custom table that
reads `r1`, `r2`, `ea` or `cond` before it writes them finds what the last `Step` left (D24; log 14), and `idxu` has no effect
wherever such a program places it, `indx` having done the post-increment (R158, U6; log 32). DESIGN CHOICE: `meaning`, which is the
model's own token, ends the program, and so does a token that raises, the effects before it standing (R143, R600; log 32). -/
def State.runToken (s : State) (f : Format) : Token → State ⊕ Outcome
  | .pcb d => .inl (s.fetch8.2.setScratch d (zext16 s.fetch8.1))
  | .pcw d => .inl (s.fetch16.2.setScratch d s.fetch16.1)
  | .drct => .inl { s.fetch8.2 with ea := wordOf s.dp s.fetch8.1 }
  | .xtnd => .inl { s.fetch16.2 with ea := s.fetch16.1 }
  | .rel8 => .inl (s.fetch8.2.rel8 s.fetch8.1)
  | .rel16 => .inl (s.fetch16.2.rel16 s.fetch16.1)
  | .indx => s.fetchIndx
  | .idxu => .inl s
  | .ld1 r => .inl (s.ld1 r)
  | .ld2 r => .inl (s.ld2 r)
  | .st1 r => .inl (s.st1 r)
  | .st2 r => .inl (s.st2 r)
  | .stEa r => .inl (s.setReg r s.ea)
  | .ftch8 .r1 => .inl s.ftch8r1
  | .ftch8 .r2 => .inl s.ftch8r2
  | .ftch16 .r1 => .inl s.ftch16r1
  | .ftch16 .r2 => .inl s.ftch16r2
  | .stor8 => .inl s.stor8
  | .stor16 => .inl s.stor16
  | .rgop x => s.fetchRgop x
  | .alu op => .inl (s.alu op)
  | .chk c => .inl (s.chk c)
  | .qt => if s.cond then .inr (.next s) else .inl s
  | .qf => if s.cond then .inl s else .inr (.next s)
  | .page => s.recordPrefix
  | .ntck => .inl { s with ntck := true }
  | .sync => .inl s.sync
  | .wait => .inl s.wait
  | .swi k => .inl (s.swiToken k)
  | .rti => .inl s.rti
  | .nop => .inl s
  | .err => .inr s.raiseIllegal
  | .meaning m => .inr (s.runMeaning f m)

/-- The microcode interpreter (R143): the tokens in order, until one ends the program. -/
def State.runMicrocode (s : State) (f : Format) : List Token → Outcome
  | [] => .next s
  | t :: ts =>
    match s.runToken f t with
    | .inl u => u.runMicrocode f ts
    | .inr o => o

end Sys2Proof.Machine
end

