-- ==== Sys2Proof/Machine/Cycle.lean ====
section
/-! DEFINITION. The fetch/execute cycle (R140 of `40_fetch_execute.md`). -/

namespace Sys2Proof.Machine

/-- Go on from a next state; a fault or a refusal ends here. -/
def onNext (o : Outcome) (k : State → Outcome) : Outcome :=
  match o with
  | .next t => k t
  | .fault r => .fault r
  | .refused r => .refused r

/-- One pass of the loop of R140 over the default table: look up on the current page, advance PC past the bytes fetched, run
the entry. A missing entry raises `IllegalOpcode` with PC past the opcode byte (R600); `short` never occurs on four bytes. -/
def State.fetchExecute (s : State) : Outcome :=
  match decodeEntry s.page s.fetchWindow with
  | .found i opcode n => exec i { s.advance n with op := opcode }
  | .notFound opcode => { s.advance 1 with op := opcode }.raiseIllegal
  | .short => s.raiseIllegal

/-- The end of the cycle: page 0, and `PcNotify` unless `ntck`, which is dead from here on (R140, R146, R641). -/
def State.endCycle (s : State) : State :=
  let t := { s with page := .p0, ntck := false }
  if s.ntck then t else t.emit (.pcNotify t.pc)

/-- The start of the cycle: `ntck <- false; page <- 0` (R140). -/
def State.beginCycle (s : State) : State := { s with ntck := false, page := .p0 }

/-- How often the loop of R140 may repeat in one `Step`: more often than there are values of what a turn can read and change, so
a loop that gets here has been in one of them twice and never ends (log 33). 178 bits are A, B, DP, CC and `op` (40), X, Y, U, S, PC,
`r1`, `r2` and `ea` (128), `cond`, `ntck`, the page, the run state and the latches (10); then memory, and the devices' state, which
is the one it was or a rule's. -/
def State.prefixLimit (s : State) : Nat := (s.cfg.devices.length + 1) * 2 ^ (178 + 8 * s.memSize) + 2

/-- The loop of R140 over any table: a prefix entry repeats the fetch, unless its program raised (R600). -/
def State.fetchLoop (es : List TableEntry) : Nat → State → Outcome
  | 0, _ => .fault .prefixLoop
  | n + 1, s =>
    let t := { s.advance 1 with op := s.peek s.pc }
    match findEntry es t.op s.page with
    | none => t.raiseIllegal
    | some e => onNext (t.runMicrocode e.format e.microcode) fun u =>
      if e.format = .pager ∧ u.illegalCount = s.illegalCount then State.fetchLoop es n u else .next u

/-- The cycle of a Running machine (R140). With the default table a prefix entry leaves a page, and the fetch is repeated once
(R141). -/
def State.cycle (s : State) : Outcome :=
  match s.cfg.opcodeTable with
  | .standard =>
    onNext s.beginCycle.fetchExecute fun t =>
      onNext (if t.page = .p0 then .next t else t.fetchExecute) fun u => .next u.endCycle
  | .custom es => onNext (State.fetchLoop es s.prefixLimit s.beginCycle) fun u => .next u.endCycle

/-- The output events are those of one command (log 13). -/
def State.beginCommand (s : State) : State := { s with events := [] }

/-- `Step` (R140): a cycle when Running, then `CheckInterrupts`; while Waiting or Syncing only the check (D13). -/
def State.runStep (s : State) : Outcome :=
  match s.run with
  | .running => onNext s.beginCommand.cycle fun t => .next t.checkInterrupts
  | .waiting | .syncing => .next s.beginCommand.checkInterrupts

/-- Store bytes at consecutive addresses with no notification: how an instruction is placed (log 18). -/
def State.placeBytes (s : State) (addr : Word) : List Byte → State
  | [] => s
  | v :: vs => let t := s.placeBytes (addr + 1) vs; { t with mem := Memory.write (t.mask addr) v t.mem }

end Sys2Proof.Machine
end

