-- ==== Sys2Proof/Machine/Step.lean ====
section
/-! DEFINITION. The step of the machine. -/

namespace Sys2Proof.Machine

/-- One `Step` (R140 of `40_fetch_execute.md`). -/
def step (s : State) : Host.Outcome State Fault Refusal := s.runStep

/-- The state with an instruction's bytes stored at PC, where `step` fetches, and Running, so that it does fetch (log 18). -/
def State.withFetchWord (s : State) (nbits w : Nat) : State :=
  { s.placeBytes s.pc (tableBytes nbits (w % 2 ^ nbits)) with run := .running }

end Sys2Proof.Machine
end

