-- ==== Sys2Proof/Machine/Assembler.lean ====
section
/-! DEFINITION. The instruction encoder: expressions, operands, directives, lines, passes (`47_encoder.md`). -/

namespace Sys2Proof.Machine

/-- What an expression or an operand is evaluated against (R555). -/
structure AsmEnv where
  table : OpcodeTable
  passNo : Nat
  programCounter : Word
  directPage : DirectPage
  labels : List Label
  deriving DecidableEq, Repr

/-! ### Labels and expressions (R505, R530 to R532) -/

/-- The value of a label, by its upper-case name. -/
def lookupLabel (labels : List Label) (name : Text) : Option Int := (labels.find? (·.name == name)).map (·.value)

/-- Bind a label (R505): a redefinition is an error in pass 1 and a replacement later. -/
def bindLabel (passNo : Nat) (labels : List Label) (name : Text) (v : Int) : Except AsmError (List Label) :=
  if ¬ isIdentifier name then .error .malformedOperand
  else if labels.any (·.name == upper name) then
    if passNo ≤ 1 then .error .duplicateLabel
    else .ok (labels.map fun l => if l.name == upper name then { l with value := v } else l)
  else .ok (labels ++ [⟨upper name, v⟩])

/-- A term of an expression: a number, or a label to look up. -/
inductive Term where
  | number (v : Int)
  | name (n : Text)
  deriving DecidableEq, Repr

/-- A number in a radix; at least one digit. -/
def parseNumber (radix : Nat) (t : Text) : Option (Term × Text) :=
  match takeDigits radix 0 0 t with
  | (_, 0, _) => none
  | (v, _, rest) => some (.number v, rest)

/-- One term and the rest of the text (R530). -/
def parseTerm : Text → Option (Term × Text)
  | '\'' :: c :: rest => some (.number (c.toNat % 256 : Nat), rest)
  | '$' :: rest => parseNumber 16 rest
  | '%' :: rest => parseNumber 2 rest
  | '0' :: 'x' :: rest => parseNumber 16 rest
  | c :: rest =>
    if c.isDigit then parseNumber 10 (c :: rest)
    else if isLetter c then
      some (.name (upper ((c :: rest).takeWhile fun d => isLetter d || d.isDigit)),
        (c :: rest).dropWhile fun d => isLetter d || d.isDigit)
    else none
  | [] => none

/-- The value of a term: no value for an unresolved label in pass 1 that is not required (R531). -/
def termValue (env : AsmEnv) (required : Bool) : Term → Except AsmError (Option Int)
  | .number v => .ok (some v)
  | .name n =>
    match lookupLabel env.labels n with
    | some v => .ok (some v)
    | none => if required || env.passNo ≥ 2 then .error .unresolvedLabel else .ok none

/-- The signed sum, left to right (R530); "no value" propagates (R531). The first argument bounds the number of terms. -/
def evalSum (env : AsmEnv) (required : Bool) : Nat → Int → Text → Option Int → Except AsmError (Option Int)
  | 0, _, _, _ => .error .malformedExpression
  | n + 1, sign, t, total =>
    match parseTerm t with
    | none => .error .malformedExpression
    | some (term, rest) =>
      match termValue env required term with
      | .error e => .error e
      | .ok v =>
        let sum : Option Int := total.bind fun x => v.map fun y => x + sign * y
        match rest with
        | [] => .ok sum
        | '+' :: cs => evalSum env required n 1 cs sum
        | '-' :: cs => evalSum env required n (-1) cs sum
        | _ => .error .malformedExpression

/-- `Eval(expr)` (R530 to R532): a total outside -32768..65535 is an error in every pass. -/
def evalExpr (env : AsmEnv) (required : Bool) (t : Text) : Except AsmError (Option Int) :=
  let result :=
    match t with
    | '+' :: cs => evalSum env required t.length 1 cs (some 0)
    | '-' :: cs => evalSum env required t.length (-1) cs (some 0)
    | _ => evalSum env required t.length 1 t (some 0)
  match result with
  | .ok (some v) => if -32768 ≤ v ∧ v ≤ 65535 then .ok (some v) else .error .expressionRange
  | r => r

/-- An expression whose value the caller requires (R531). -/
def evalRequired (env : AsmEnv) (t : Text) : Except AsmError Int :=
  match evalExpr env true t with
  | .ok (some v) => .ok v
  | .ok none => .error .unresolvedLabel
  | .error e => .error e

/-- `v mod 256`. -/
def byteOfInt (v : Int) : Byte := BitVec.ofInt 8 v

/-- `v mod 65536`. -/
def wordOfInt (v : Int) : Word := BitVec.ofInt 16 v

/-- A range that is enforced from pass 2 (R532, R540); "no value" is in every range. -/
def checkRange (env : AsmEnv) (lo hi : Int) (v : Option Int) (e : AsmError) : Except AsmError Unit :=
  match v with
  | none => .ok ()
  | some n => if env.passNo ≥ 2 ∧ ¬ (lo ≤ n ∧ n ≤ hi) then .error e else .ok ()

/-! ### Operand classes (R510 to R516) -/

/-- Whether the table has a record for a mnemonic and a format (R503). -/
def hasFormat (env : AsmEnv) (m : OpName) (f : Format) : Bool := (env.table.form m f).isSome

/-- The bytes of a mnemonic with an operand; a missing record is the error of R503. -/
def finish (env : AsmEnv) (m : OpName) (o : Operand) : Except AsmError (List Byte) :=
  match env.table.form m o.format with
  | some bs => .ok (bs ++ o.bytes)
  | none => .error .invalidPairing

/-- A size-forcing prefix: forced 8-bit, forced 16-bit, and the text without it (R512, R520). -/
def forcing : Text → Bool × Bool × Text
  | '<' :: t => (true, false, t)
  | '>' :: t => (false, true, t)
  | t => (false, false, t)

/-- `#expr` (R511). DESIGN CHOICE: a name of a custom table with records of both widths takes the 16-bit one (log 34). -/
def encodeImmediate (env : AsmEnv) (m : OpName) (t : Text) : Except AsmError (List Byte) :=
  if hasFormat env m .imm16 then do
    let v ← evalExpr env false t
    checkRange env (-32768) 65535 v .outOfRangeConstant
    finish env m (.imm16 (wordOfInt (v.getD 0)))
  else if hasFormat env m .imm8 then do
    let v ← evalExpr env false t
    checkRange env (-128) 255 v .outOfRangeConstant
    finish env m (.imm8 (byteOfInt (v.getD 0)))
  else .error .invalidPairing

/-- Whether a forced 8-bit direct value fits (R512, D42). -/
def directFits (dp : DirectPage) (w : Word) : Bool := hiByte w == 0 || (dp.inUse && hiByte w == dp.value)

/-- The choice between DIR and EXT for a value (R512): the operand to emit. -/
def chooseDirect (dp : DirectPage) (forced8 forced16 : Bool) (v : Option Int) : Operand :=
  let w := wordOfInt (v.getD 0)
  if forced8 then .dir (loByte w)
  else if forced16 || v.isNone then .ext w
  else if dp.inUse && hiByte w == dp.value then .dir (loByte w)
  else .ext w

/-- Direct or extended (R512). -/
def encodeAddress (env : AsmEnv) (m : OpName) (t : Text) : Except AsmError (List Byte) := do
  let (forced8, forced16, body) := forcing t
  let v ← evalExpr env false body
  if forced8 && v.isSome && !directFits env.directPage (wordOfInt (v.getD 0)) && env.passNo ≥ 2 then
    .error .directOutOfRange
  else
    let o := chooseDirect env.directPage forced8 forced16 v
    if !hasFormat env m o.format && o.format == .dir && !forced8 then finish env m (.ext (wordOfInt (v.getD 0)))
    else finish env m o

/-- The signed distance from `b` to `a` in the wrapping address space (R513). -/
def sdiff (a b : Int) : Int := (a - b + 32768) % 65536 - 32768

/-- The length of a record's prefix. -/
def prefixLen (env : AsmEnv) (m : OpName) (f : Format) : Nat := ((env.table.form m f).getD []).length - 1

/-- A PC-relative branch (R513). -/
def encodeBranch (env : AsmEnv) (m : OpName) (t : Text) : Except AsmError (List Byte) := do
  let target ← evalExpr env false t
  if hasFormat env m .rel8 then
    let disp := target.map fun v => sdiff v (env.programCounter.toNat + (prefixLen env m .rel8 + 2 : Nat))
    checkRange env (-128) 127 disp .branchOutOfRange
    finish env m (.rel8 (byteOfInt (disp.getD 0)))
  else
    let disp := target.map fun v => sdiff v (env.programCounter.toNat + (prefixLen env m .rel16 + 3 : Nat))
    finish env m (.rel16 (wordOfInt (disp.getD 0)))

/-- The bits a register name sets in a list postbyte (R514, R102 of `30_encoding.md`). -/
def listBit (own : Stack) (t : Text) : Except AsmError Byte :=
  match regOfName t with
  | some .CC => .ok 0x01
  | some .A => .ok 0x02
  | some .B => .ok 0x04
  | some .D => .ok 0x06
  | some .DP => .ok 0x08
  | some .X => .ok 0x10
  | some .Y => .ok 0x20
  | some .U => if own = .U then .error .ownStack else .ok 0x40
  | some .S => if own = .S then .error .ownStack else .ok 0x40
  | some .PC => .ok 0x80
  | none => .error .malformedOperand

/-- The stack a push or pull mnemonic names (R102 of `30_encoding.md`, R514, R572 of `48_decoder.md`). DESIGN CHOICE: a register-list
record of a custom table under any other name has the S-stack ordering (log 34). -/
def ownStack (m : OpName) : Stack :=
  match m with
  | .core .pshu | .core .pulu => .U
  | .core _ => .S
  | .own t => if t == "PSHU".toList || t == "PULU".toList then .U else .S

/-- The union of the bits of a list of names. DESIGN CHOICE: a register name may be in lower case (log 21). -/
def listBits (own : Stack) : List Text → Except AsmError Byte
  | [] => .ok 0
  | t :: ts => do
    let b ← listBit own (upper (trim t))
    let bs ← listBits own ts
    .ok (b ||| bs)

/-- A register list (R514); an empty list gives postbyte 0 (D46). -/
def encodeList (env : AsmEnv) (m : OpName) (t : Text) : Except AsmError (List Byte) :=
  if t = [] then finish env m (.rlist 0)
  else do
    let pb ← listBits (ownStack m) (splitOn ',' t)
    finish env m (.rlist pb)

/-- Whether a register is 16 bits wide (R20). -/
def isWide : Reg → Bool
  | .D | .X | .Y | .U | .S | .PC => true
  | .A | .B | .DP | .CC => false

/-- A register pair (R515); different widths are rejected (R516). DESIGN CHOICE: a register name may be in lower case (log 21). -/
def encodePair (env : AsmEnv) (m : OpName) (t : Text) : Except AsmError (List Byte) :=
  match splitOn ',' t with
  | [a, b] =>
    match regOfName (upper (trim a)), regOfName (upper (trim b)) with
    | some p, some q => if isWide p == isWide q then finish env m (.rpair (.reg p) (.reg q)) else .error .invalidRegisterPair
    | _, _ => .error .malformedOperand
  | _ => .error .malformedOperand

/-! ### Indexed operands (R520 to R523) -/

/-- The register part of an indexed operand (R520). -/
inductive IdxShape where
  | inc1 (r : IdxReg) | inc2 (r : IdxReg) | dec1 (r : IdxReg) | dec2 (r : IdxReg) | plain (r : IdxReg) | pcr
  deriving DecidableEq, Repr

def idxRegOf (c : Char) : Option IdxReg := [IdxReg.X, .Y, .U, .S].find? fun r => idxRegName r == [c]

/-- `R`, `R+`, `R++`, `-R`, `--R` or `PCR` (R520), in upper case. -/
def parseShape : Text → Option IdxShape
  | ['P', 'C', 'R'] => some .pcr
  | [c] => (idxRegOf c).map .plain
  | [c, '+'] => (idxRegOf c).map .inc1
  | ['-', c] => (idxRegOf c).map .dec1
  | [c, '+', '+'] => (idxRegOf c).map .inc2
  | ['-', '-', c] => (idxRegOf c).map .dec2
  | _ => none

/-- The size of a constant offset (R521, D29): the operand to emit. -/
def chooseOffset (r : IdxReg) (indirect forced8 forced16 : Bool) (v : Option Int) : Index :=
  match v with
  | some n =>
    if !indirect && !forced8 && !forced16 && decide (-16 ≤ n ∧ n ≤ 15) then .off5 r (BitVec.ofInt 5 n)
    else if forced8 || (!forced16 && decide (-128 ≤ n ∧ n ≤ 127)) then .mode r indirect (.off8 (byteOfInt n))
    else .mode r indirect (.off16 (wordOfInt n))
  | none => if forced8 then .mode r indirect (.off8 0) else .mode r indirect (.off16 0)

/-- A constant offset `n,R` (R521). -/
def constantOffset (env : AsmEnv) (indirect : Bool) (r : IdxReg) (t : Text) : Except AsmError Index := do
  let (forced8, forced16, body) := forcing t
  let v ← evalExpr env false body
  if forced8 then checkRange env (-128) 127 v .outOfRangeConstant
  .ok (chooseOffset r indirect forced8 forced16 v)

/-- The size of a PC-relative offset (R523): `next8` is the address after the 8-bit form. -/
def choosePcr (indirect forced8 forced16 : Bool) (target : Option Int) (next8 : Int) : Index :=
  match target with
  | none => .mode .X indirect (.pcr16 0)
  | some t =>
    if !forced16 && (forced8 || decide (-128 ≤ sdiff t next8 ∧ sdiff t next8 ≤ 127)) then
      .mode .X indirect (.pcr8 (byteOfInt (sdiff t next8)))
    else .mode .X indirect (.pcr16 (wordOfInt (t - (next8 + 1))))

/-- `expr,PCR` (R523): the expression is the target address. -/
def pcrOffset (env : AsmEnv) (m : OpName) (indirect : Bool) (t : Text) : Except AsmError Index := do
  let (forced8, forced16, body) := forcing t
  let target ← evalExpr env false body
  let next8 : Int := env.programCounter.toNat + (prefixLen env m .idx + 3 : Nat)
  if forced8 then checkRange env (-128) 127 (target.map fun v => sdiff v next8) .outOfRangeConstant
  .ok (choosePcr indirect forced8 forced16 target next8)

/-- An indexed operand from its offset and register texts (R521, R522). DESIGN CHOICE: an accumulator offset may be in lower
case (log 21). -/
def parseIndexed (env : AsmEnv) (m : OpName) (indirect : Bool) (off reg : Text) : Except AsmError Index :=
  match parseShape (upper reg) with
  | none => .error .malformedOperand
  | some .pcr => pcrOffset env m indirect off
  | some (.plain r) =>
    if off = [] then .ok (.mode r indirect .zero)
    else if upper off = ['A'] then .ok (.mode r indirect .accA)
    else if upper off = ['B'] then .ok (.mode r indirect .accB)
    else if upper off = ['D'] then .ok (.mode r indirect .accD)
    else constantOffset env indirect r off
  | some (.inc1 r) =>
    if off ≠ [] then .error .malformedOperand
    else if indirect then .error .invalidAddressingMode else .ok (.mode r false .inc1)
  | some (.dec1 r) =>
    if off ≠ [] then .error .malformedOperand
    else if indirect then .error .invalidAddressingMode else .ok (.mode r false .dec1)
  | some (.inc2 r) => if off ≠ [] then .error .malformedOperand else .ok (.mode r indirect .inc2)
  | some (.dec2 r) => if off ≠ [] then .error .malformedOperand else .ok (.mode r indirect .dec2)

/-- The inside of `[...]` or `(...)`, or the text itself (R520). -/
def unwrap (t : Text) : Bool × Text :=
  match t, t.getLast? with
  | '[' :: cs, some ']' => (true, trim cs.dropLast)
  | '(' :: cs, some ')' => (true, trim cs.dropLast)
  | _, _ => (false, t)

/-- General memory addressing (R520). -/
def encodeMemory (env : AsmEnv) (m : OpName) (t : Text) : Except AsmError (List Byte) :=
  let (indirect, body) := unwrap t
  match indirect, body with
  | false, '#' :: expr => encodeImmediate env m expr
  | _, _ =>
    match splitLast body with
    | none =>
      if indirect then do
        let v ← evalExpr env false body
        finish env m (.idx (.mode .X true (.abs (wordOfInt (v.getD 0)))))
      else encodeAddress env m body
    | some (off, reg) => do
      let ix ← parseIndexed env m indirect (trim off) (trim reg)
      finish env m (.idx ix)

/-- `Encode(mnemonic, operandText, ...)` (R555, R503): the bytes of one instruction line. DESIGN CHOICE: where a custom table gives
one name records of several operand classes, the class is the first of simple, register pair, register list, PC-relative and
memory that the name has a record of (log 34). -/
def encodeInstr (env : AsmEnv) (m : OpName) (t : Text) : Except AsmError (List Byte) :=
  if hasFormat env m .inh then if t = [] then finish env m .inh else .error .malformedOperand
  else if hasFormat env m .rpair then encodePair env m t
  else if hasFormat env m .rlist then encodeList env m t
  else if hasFormat env m .rel8 || hasFormat env m .rel16 then encodeBranch env m t
  else encodeMemory env m t

/-! ### Lines (R500 to R504) -/

/-- A line's label, statement token in upper case, and operand text. -/
structure ParsedLine where
  label : Option Text
  statement : Option (Text × Text)
  deriving DecidableEq, Repr

/-- The statement at the start of a trimmed text. -/
def parseStatement (t : Text) : Option (Text × Text) :=
  if t = [] then none else some (upper (takeToken t).1, trim (takeToken t).2)

/-- Comment, label, statement (R500, R502). -/
def parseLine (table : OpcodeTable) (line : Text) : ParsedLine :=
  let t := stripComment line
  let leading := match t with
    | c :: _ => isBlank c
    | [] => false
  let body := trim t
  let (token, rest) := takeToken body
  if token.getLast? = some ':' then ⟨some token.dropLast, parseStatement rest⟩
  else if !leading && isIdentifier token && !table.knows token then ⟨some token, parseStatement rest⟩
  else ⟨none, parseStatement body⟩

/-- What the encoder's functions read of the state. -/
def State.asmEnv (s : State) : AsmEnv :=
  ⟨s.cfg.opcodeTable, s.asm.passNo, s.asm.programCounter, s.asm.directPage, s.asm.labels⟩

/-- Deposit bytes (R501): `fill`, append to the open block, move `programCounter`, masked at the top of memory. -/
def State.deposit (s : State) (bs : List Byte) : State :=
  let start := s.mask s.asm.programCounter
  let (t, next) := s.fill s.asm.programCounter bs
  { t with asm := { t.asm with
      programCounter := BitVec.ofNat 16 (next % s.memSize)
      openBlock := { t.asm.openBlock with bytes := t.asm.openBlock.bytes ++ bs.take (next - start) } } }

/-- Close the open block and open a new one at an address (R544). -/
def AsmState.openAt (a : AsmState) (pc : Word) : AsmState :=
  { a with programCounter := pc, blocks := a.blocks ++ [a.openBlock], openBlock := ⟨pc, []⟩ }

/-- Bind a name in the state's label table. -/
def State.bind (s : State) (name : Text) (v : Int) : Except AsmError State := do
  let labels ← bindLabel s.asm.passNo s.asm.labels name v
  .ok { s with asm := { s.asm with labels := labels } }

/-- A label bound to the program counter, or nothing to bind (R502, D44). -/
def State.bindHere (s : State) : Option Text → Except AsmError State
  | none => .ok s
  | some name => s.bind name s.asm.programCounter.toNat

/-- Bind a name to an expression, or leave it undefined when the expression has no value in pass 1 (R551). -/
def State.bindExpr (s : State) (name t : Text) : Except AsmError State := do
  match ← evalExpr s.asmEnv false t with
  | some v => s.bind name v
  | none => .ok s

/-! ### Directives (R545 to R554) -/

/-- Whether the rest of an item after its single quote is a string: at least one character up to the next single quote, and
that quote ends the item (R545; log 21). -/
def endsString (t : Text) : Bool :=
  !(t.takeWhile (· != '\'')).isEmpty &&
    match t.dropWhile (· != '\'') with
    | [] => false
    | _ :: rest => (trimLeft rest).isEmpty || (trimLeft rest).head? == some ','

/-- Whether an item is a character literal and not a string (R530, R545; log 21). -/
def isCharLiteral : Text → Bool
  | '\'' :: rest => !endsString rest
  | _ => false

/-- The items of `DB`: commas inside strings and character literals do not split (R545). The arguments are the quote of
the string the scan is in, and whether the scan is at the start of an item. -/
def splitItems : Option Char → Bool → Text → List Text
  | _, _, [] => [[]]
  | some q, _, c :: cs => consPiece c (splitItems (if c = q then none else some q) false cs)
  | none, _, ',' :: cs => [] :: splitItems none true cs
  | none, start, '"' :: cs => consPiece '"' (splitItems (if start then some '"' else none) false cs)
  | none, start, '\'' :: c :: cs =>
    if start && !isCharLiteral ('\'' :: c :: cs) then
      consPiece '\'' (consPiece c (splitItems (if c = '\'' then none else some '\'') false cs))
    else consPiece '\'' (consPiece c (splitItems none false cs))
  | none, start, c :: cs => consPiece c (splitItems none (start && isBlank c) cs)

/-- The low 8 bits of a character's code (D47). -/
def charByte (c : Char) : Byte := BitVec.ofNat 8 c.toNat

/-- The bytes of a quoted string, when the text is one (R545): it begins and ends with the quote. DESIGN CHOICE: a double quote
further inside is a character of the string (log 21). -/
def quotedBytes (q : Char) (t : Text) : Option (List Byte) :=
  match t with
  | c :: cs => if c = q ∧ cs.getLast? = some q then some (cs.dropLast.map charByte) else none
  | [] => none

/-- One item of `DB` (R545). -/
def dbItem (env : AsmEnv) (t : Text) : Except AsmError (List Byte) :=
  if isCharLiteral t then evalByte t
  else
    match quotedBytes '"' t, quotedBytes '\'' t with
    | some bs, _ => .ok bs
    | none, some bs => .ok bs
    | none, none => evalByte t
where
  evalByte (t : Text) : Except AsmError (List Byte) := do
    let v ← evalExpr env false t
    checkRange env (-128) 255 v .outOfRangeConstant
    .ok [byteOfInt (v.getD 0)]

/-- One item of `DW` (R546). -/
def dwItem (env : AsmEnv) (t : Text) : Except AsmError (List Byte) := do
  let v ← evalExpr env false t
  .ok (wordBytes (wordOfInt (v.getD 0)))

/-- The bytes of a list of items. -/
def itemBytes (f : Text → Except AsmError (List Byte)) : List Text → Except AsmError (List Byte)
  | [] => .ok []
  | t :: ts => do
    let b ← f (trim t)
    let bs ← itemBytes f ts
    .ok (b ++ bs)

/-- `CONST name=expr,...` (R552). -/
def State.bindConsts (s : State) : List Text → Except AsmError State
  | [] => .ok s
  | t :: ts => do
    match takeUntil '=' t with
    | some (name, expr) => (← s.bindExpr (trim name) (trim expr)).bindConsts ts
    | none => .error .malformedArguments

/-- The names of `VAR size,name,...` (R553). -/
def State.allocate (s : State) (size : Int) : List Text → Except AsmError State
  | [] => .ok s
  | t :: ts => do
    let b ← s.bind (trim t) s.asm.programCounter.toNat
    { b with asm := { b.asm with programCounter := b.asm.programCounter + wordOfInt size } }.allocate size ts

/-- The effect of a directive other than `EQU`, after the label is bound (R545 to R550, R552 to R554). DESIGN CHOICE (log 21):
a comma in a character literal separates no item of `DW`, `FILL`, `CONST` or `VAR`, and `VAR size` with no name is accepted. -/
def State.directive (s : State) (d : Directive) (t : Text) : Except AsmError State :=
  let env := s.asmEnv
  match d with
  | .db => do .ok (s.deposit (← itemBytes (dbItem env) (splitItems none true t)))
  | .dw => do .ok (s.deposit (← itemBytes (dwItem env) (splitExprs t)))
  | .fill =>
    match splitExprs t with
    | [value, count] => do
      let v ← evalExpr env false (trim value)
      let n ← evalRequired env (trim count)
      if 0 ≤ n then .ok (s.deposit (List.replicate n.toNat (byteOfInt (v.getD 0)))) else .error .outOfRangeConstant
    | _ => .error .malformedArguments
  | .org => do .ok { s with asm := s.asm.openAt (wordOfInt (← evalRequired env t)) }
  | .ds => do .ok { s with asm := s.asm.openAt (s.asm.programCounter + wordOfInt (← evalRequired env t)) }
  | .setdp => do .ok { s with asm := { s.asm with directPage := ⟨byteOfInt (← evalRequired env t), true⟩ } }
  | .equ => .error .malformedArguments
  | .const => s.bindConsts (splitExprs t)
  | .var =>
    match splitExprs t with
    | size :: names => do
      let n ← evalRequired env (trim size)
      let b ← s.allocate n names
      .ok { b with asm := b.asm.openAt b.asm.programCounter }
    | [] => .error .malformedArguments
  | .stop => .ok { s with asm := { s.asm with ended := true } }

/-- One parsed line (R502, R503, R551). DESIGN CHOICE: the pending label of a line is bound before the line's operand is read, so
the operand sees it in pass 1 already (D44; log 30). DESIGN CHOICE: a token that is a directive is that directive, though a custom
table gives a record the same name (log 34). -/
def State.asmParsed (s : State) (p : ParsedLine) : Except AsmError State :=
  match p.statement with
  | none => s.bindHere p.label
  | some (token, operand) =>
    match directiveOf token, p.label with
    | some .equ, some name => s.bindExpr name operand
    | some .equ, none => .error .malformedArguments
    | some d, label => do (← s.bindHere label).directive d operand
    | none, label =>
      match s.cfg.opcodeTable.nameOf token with
      | none => .error .invalidInstruction
      | some m => do
        let b ← s.bindHere label
        .ok (b.deposit (← encodeInstr b.asmEnv m operand))

/-- One source line (R500 to R504). -/
def State.asmLine (s : State) (line : Text) : Except AsmError State := s.asmParsed (parseLine s.cfg.opcodeTable line)

/-! ### Passes (R540 to R543) -/

/-- The state at the start of a pass (R541): the label table and the source persist. -/
def AsmState.startPass (a : AsmState) (passNo : Nat) (initialPc : Word) : AsmState :=
  { AsmState.initial initialPc with
    source := a.source, labels := a.labels, passNo := passNo, phase := .running, status := a.status }

/-- The start of an assembly run: pass 1, an empty label table (R541; log 20). -/
def State.asmBegin (s : State) (source : List Text) : State :=
  { s with asm := { AsmState.initial s.cfg.asmInitialPc with source := source, phase := .running } }

/-- Finalisation (R542): the start address from the label `START`, empty blocks dropped. DESIGN CHOICE: a negative value of `START` is
reported modulo 65536 (log 20). -/
def AsmState.finalise (a : AsmState) (defaultOrigin : Word) : AsmState :=
  { a with
    phase := .done
    startAddress := some (((lookupLabel a.labels "START".toList).map wordOfInt).getD defaultOrigin)
    blocks := (a.blocks ++ [a.openBlock]).filter fun b => b.bytes != []
    status := a.status.map fun e => { e with phase := .done } }

/-- The end of a pass (R540, R543): the next pass, or finalisation after pass 3. -/
def State.endPass (s : State) : State :=
  if s.asm.passNo < 3 then { s with asm := s.asm.startPass (s.asm.passNo + 1) s.cfg.asmInitialPc }
  else { s with asm := s.asm.finalise s.cfg.asmDefaultOrigin }

/-- `asmAdvanceOneLine()` (R543): one source line of the current pass. An error ends the run and the line deposits
nothing (R504). -/
def State.asmAdvanceOneLine (s : State) : State :=
  if s.asm.phase ≠ .running then s
  else
    match s.asm.source[s.asm.cursor]? with
    | none => s.endPass
    | some line =>
      match s.asmLine line with
      | .error e =>
        { s with asm := { s.asm with
            errorFlag := true
            phase := .error
            status := some ⟨.error, s.asm.passNo, s.asm.cursor + 1, some e, line⟩ } }
      | .ok t =>
        let t := { t with asm := { t.asm with
          cursor := s.asm.cursor + 1
          status := some ⟨.running, s.asm.passNo, s.asm.cursor + 1, none, line⟩ } }
        if t.asm.ended || t.asm.cursor ≥ t.asm.source.length then t.endPass else t

/-- A number of `asmAdvanceOneLine` commands. -/
def State.asmAdvance (s : State) : Nat → State
  | 0 => s
  | n + 1 => s.asmAdvanceOneLine.asmAdvance n

/-- A whole run as one loop over all lines of the three passes (R543). -/
def State.assemble (s : State) (source : List Text) : State :=
  (s.asmBegin source).asmAdvance (3 * (source.length + 1))

end Sys2Proof.Machine
end

