-- ==== Sys2Proof/Machine/Disassembler.lean ====
section
/-! DEFINITION. The instruction decoder: memory to text (`48_decoder.md`). It reads memory and changes nothing. -/

namespace Sys2Proof.Machine

/-- One decoded line (R560). -/
structure DecodedLine where
  address : Nat
  rawBytes : List Byte
  mnemonic : Text
  operandText : Text
  deriving DecidableEq, Repr

/-- `Name(v)` (R563): the first label of the map with the value. -/
def nameOf (labels : List Label) (v : Int) : Option Text := (labels.find? fun l => l.value == v).map (·.name)

/-- A word as a label, or `$hhhh` (R568, R570). -/
def wordText (labels : List Label) (w : Word) : Text := (nameOf labels w.toNat).getD (hex4 w)

/-- The text of a sub-mode before the brackets of an indirect form (R569); `next` is the address after the instruction. -/
def modeText (labels : List Label) (next : Word) (r : IdxReg) (indirect : Bool) : IdxMode → Text
  | .inc1 => ',' :: idxRegName r ++ ['+']
  | .inc2 => ',' :: idxRegName r ++ ['+', '+']
  | .dec1 => [',', '-'] ++ idxRegName r
  | .dec2 => [',', '-', '-'] ++ idxRegName r
  | .zero => ',' :: idxRegName r
  | .accB => ['B', ','] ++ idxRegName r
  | .accA => ['A', ','] ++ idxRegName r
  | .off8 n =>
    (if !indirect && decide (-16 ≤ n.toInt ∧ n.toInt ≤ 15) then ['<'] else []) ++ decimal n.toInt ++ ',' :: idxRegName r
  | .off16 n =>
    (if -128 ≤ n.toInt ∧ n.toInt ≤ 127 then ['>'] else []) ++ decimal n.toInt ++ ',' :: idxRegName r
  | .accD => ['D', ','] ++ idxRegName r
  | .pcr8 n => wordText labels (next + sext16 n) ++ [',', 'P', 'C', 'R']
  | .pcr16 n =>
    let short := sdiff (next + n).toNat (next.toNat - 1)
    (if -128 ≤ short ∧ short ≤ 127 then ['>'] else []) ++ wordText labels (next + n) ++ [',', 'P', 'C', 'R']
  | .abs w => if indirect then wordText labels w else hex4 w
  | .undefined _ => ['?', '?', '?']

/-- The text of an indexed operand (R569). -/
def indexText (labels : List Label) (next : Word) : Index → Text
  | .off5 r n => decimal n.toInt ++ ',' :: idxRegName r
  | .mode r indirect m =>
    if indirect && m.wf then '[' :: modeText labels next r indirect m ++ [']'] else modeText labels next r indirect m

/-- The text of an operand (R565 to R572). -/
def operandText (labels : List Label) (m : OpName) (next : Word) : Operand → Text
  | .inh => []
  | .imm8 v => '#' :: hex2 v
  | .imm16 v => '#' :: hex4 v
  | .dir lo => '<' :: (nameOf labels lo.toNat).getD (hex2 lo)
  | .ext a => wordText labels a
  | .idx ix => indexText labels next ix
  | .rel8 d => wordText labels (next + sext16 d)
  | .rel16 d => wordText labels (next + d)
  | .rpair (.reg p) (.reg q) => commaJoin [regName p, regName q]
  | .rpair _ _ => ['?', '?', '?']
  | .rlist l => commaJoin ((selectedRegs (ownStack m) l).map regName)
  | .pager => []

/-- The bytes at an address, wrapping through the mask (R560). -/
def State.bytesAt (s : State) (addr : Nat) : Nat → List Byte
  | 0 => []
  | n + 1 => s.peek (BitVec.ofNat 16 addr) :: s.bytesAt (addr + 1) n

/-- The marker line's mnemonic (R562, D48). -/
def markerText : Text := ['?', '?', '?']

/-- The record that the bytes at an address select, after the one re-lookup of a prefix, with how many bytes the lookup read
and the last of them; no record, or a second prefix record, is an error (R561). DESIGN CHOICE: a custom table's prefix record on a
byte that is no page of R31 is an error of that one byte, as in the engine (log 33). -/
def State.lookupAt (s : State) (es : List TableEntry) (addr : Nat) : Option TableEntry × Nat × Byte :=
  let b0 := s.peek (BitVec.ofNat 16 addr)
  let b1 := s.peek (BitVec.ofNat 16 (addr + 1))
  match findEntry es b0 .p0 with
  | none => (none, 1, b0)
  | some e =>
    if e.format ≠ .pager then (some e, 1, b0)
    else
      match Page.ofByte b0 with
      | none => (none, 1, b0)
      | some p => ((findEntry es b1 p).filter (·.format != .pager), 2, b1)

/-- `DecodeOne(a)` over any table (R561, R562). -/
def State.decodeCustom (s : State) (es : List TableEntry) (labels : List Label) (addr : Nat) : Nat × Text × Text :=
  match s.lookupAt es addr with
  | (none, n, b) => (n, markerText, hex2 b)
  | (some e, n, _) =>
    match decodeOperand e.format (s.bytesAt (addr + n) 3) with
    | none => (n, markerText, [])
    | some (o, k) => (n + k, e.mnemonic, operandText labels (.own (upper e.mnemonic)) (BitVec.ofNat 16 (addr + n + k)) o)

/-- `DecodeOne(a)` (R561, R562): length, mnemonic, operand text. -/
def State.decodeOne (s : State) (labels : List Label) (addr : Nat) : Nat × Text × Text :=
  match s.cfg.opcodeTable with
  | .custom es => s.decodeCustom es labels addr
  | .standard =>
    match decode (s.bytesAt addr 5) with
    | .instr i len =>
      (len, mnemonicName i.mnemonic, operandText labels (.core i.mnemonic) (BitVec.ofNat 16 (addr + len)) i.operand)
    | .illegal op _ len => (len, markerText, hex2 op)
    | .short => (1, markerText, [])

/-- `disassemble(start, end, maxLines)` (R560): the walk stops after `maxLines` lines, past `last`, or past 0xFFFF (D48). -/
def State.disassemble (s : State) (labels : List Label) (addr last : Nat) : Nat → List DecodedLine
  | 0 => []
  | n + 1 =>
    if addr ≤ last ∧ addr ≤ 0xFFFF then
      let (len, name, text) := s.decodeOne labels addr
      ⟨addr, s.bytesAt addr len, name, text⟩ :: s.disassemble labels (addr + len) last n
    else []

end Sys2Proof.Machine
end

