-- ==== Sys2Proof/Machine/Driver.lean ====
section
/-! DEFINITION. The commands of the driver (D2 of `92_eei_decisions.md`, R9, R653): each is one atomic function of the
state. Which command comes when is the driver's. -/

namespace Sys2Proof.Machine

/-- The commands the block accepts. -/
inductive Command where
  /-- `Step` (R140). -/
  | step
  /-- `CheckInterrupts` (R606). -/
  | checkInterrupts
  /-- `Stop` (R147). -/
  | stop
  /-- `Latch(kind)` (R604). -/
  | latch (k : IntKind)
  /-- `poke(addr, byte)` (R62). -/
  | poke (addr : Word) (v : Byte)
  /-- `fill(addr, bytes)` (R63). -/
  | fill (addr : Word) (bytes : List Byte)
  /-- `addWindow(owner, base, len)` (R67). -/
  | addWindow (owner base len : Nat)
  /-- `removeWindow(handle)` (R67). -/
  | removeWindow (handle : Nat)
  /-- `removeWindow(base, len)` (R67). -/
  | removeWindowRange (base len : Nat)
  /-- The host's write of the PC register (R646). -/
  | setPc (v : Word)
  /-- The start of an assembly run over a list of source lines (R540). -/
  | asmBegin (source : List Text)
  /-- `asmAdvanceOneLine()` (R543). -/
  | asmAdvanceOneLine
  deriving DecidableEq, Repr

/-- The effect of one command. -/
def command (c : Command) (s : State) : Outcome :=
  match c with
  | .step => step s
  | .checkInterrupts => .next s.beginCommand.checkInterrupts
  | .stop => .next s.beginCommand.stop
  | .latch k => .next (s.beginCommand.latch k)
  | .poke addr v => .next (s.beginCommand.poke addr v)
  | .fill addr bytes => .next (s.beginCommand.fill addr bytes).1
  | .addWindow owner base len => .next (s.beginCommand.addWindow owner base len).1
  | .removeWindow handle => .next (s.beginCommand.removeWindowHandle handle)
  | .removeWindowRange base len => .next (s.beginCommand.removeWindowRange base len)
  | .setPc v => .next (s.beginCommand.setPc v)
  | .asmBegin source => .next (s.beginCommand.asmBegin source)
  | .asmAdvanceOneLine => .next s.beginCommand.asmAdvanceOneLine

/-- A sequence of commands, stopping at the first fault. -/
def commands : List Command → State → Outcome
  | [], s => .next s
  | c :: cs, s => onNext (command c s) (commands cs)

/-- `cycle(N)` (R148): `Step` issued N times. -/
def cycles (n : Nat) (s : State) : Outcome := commands (List.replicate n .step) s

end Sys2Proof.Machine
end

