-- ==== Sys2Proof/Safety.lean ====
section
/-! DEFINITION. What every reachable state satisfies, and what a run that a claim may be made about does not do. -/

namespace Sys2Proof.Machine

/-- The invariant of the block: memory in canonical form, every listed address inside the array (R61), and page 0 between
commands (R31). -/
structure State.Inv (s : State) : Prop where
  canonical : Memory.wf s.mem = true
  inside : Memory.below s.memSize s.mem = true
  page : s.page = .p0

/-- No `IllegalOpcode` event has been raised: R600 intends no claim about a run that raised one. -/
def State.clean (s : State) : Prop := s.illegalCount = 0

/-- A safe run of `n` steps: it reaches a state with no fault and no illegal opcode. -/
def SafeRun (n : Nat) (s : State) : Prop := ∃ t, cycles n s = .next t ∧ t.clean

end Sys2Proof.Machine
end

