-- ==== Sys2Proof/Certificates/Slice0/Obligations.lean ====
section
/-! DEFINITION. The statements for the provers, and before them the words they are written in. -/

namespace Sys2Proof.Claims

open Sys2Proof.Machine

/-! ### Frames -/

/-- Nothing is stored: every byte of memory reads as before, and what a store can reach through a device, the latches and the
state of the devices, is as before. -/
def SameMemory (s t : State) : Prop :=
  (∀ addr, t.peek addr = s.peek addr) ∧ t.latches = s.latches ∧ t.deviceState = s.deviceState

/-- Every stored register but PC, CC and the named ones is as before. -/
def SameRegs (except : List Reg) (s t : State) : Prop :=
  ∀ r ∈ [Reg.A, .B, .X, .Y, .U, .S, .DP], r ∉ except → t.reg r = s.reg r

/-- Every flag but the named ones is as before. -/
def SameFlags (except : List Flag) (s t : State) : Prop := ∀ f, f ∉ except → t.flag f = s.flag f

/-- The run state, the windows, the count of illegal opcodes, the parameters, the encoder, the page and the opcode byte are as
before. -/
def SameRest (s t : State) : Prop :=
  t.run = s.run ∧ t.windows = s.windows ∧ t.nextHandle = s.nextHandle ∧
    t.illegalCount = s.illegalCount ∧ t.cfg = s.cfg ∧ t.asm = s.asm ∧ t.page = s.page ∧ t.op = s.op

/-- No control transfer: PC stays at the next instruction. -/
def Straight (s t : State) : Prop := t.pc = s.pc ∧ t.ntck = s.ntck ∧ SameRest s t

/-- No control transfer, nothing stored, no event. -/
def Quiet (s t : State) : Prop := Straight s t ∧ SameMemory s t ∧ t.events = s.events

/-- A control transfer to an address: `pc <- target; ntck`. -/
def Jumped (target : Word) (s t : State) : Prop := t.pc = target ∧ t.ntck = true ∧ SameRest s t

/-- The stored registers a register name writes: D is A and B (R23). -/
def parts : Reg → List Reg
  | .D => [.A, .B]
  | r => [r]

/-- A value masked to a register's width (R20, R21). -/
def narrow (r : Reg) (v : Word) : Word :=
  match r with
  | .A | .B | .DP | .CC => v &&& 0x00FF
  | .D | .X | .Y | .U | .S | .PC => v

/-- A signed byte as a 16-bit pattern (R8). -/
def signed8 (v : Byte) : Word := BitVec.ofInt 16 v.toInt

/-- N and Z from a result (R203). -/
def FlagsNZ {w : Nat} (r : BitVec w) (t : State) : Prop := t.flag .N = r.msb ∧ t.flag .Z = decide (r.toNat = 0)

/-- A flag of U8: unchanged, unless the parameter `undefinedFlags` lets it be any value (R204, log 7). -/
def OpenFlag (f : Flag) (s t : State) : Prop := s.cfg.undefinedFlags = .unchanged → t.flag f = s.flag f

/-- The word at an address, big-endian (R65). -/
def wordAt (s : State) (addr : Word) : Word := wordOf (s.peek addr) (s.peek (addr + 1))

/-- The value of an 8-bit operand and the state after its addressing (R260). -/
def operand8 (s : State) : Src8 → Option (Byte × State)
  | .imm v => some (v, s)
  | .mem m => (s.resolveEA m).map fun u => (u.peek u.ea, u)

/-- The value of a 16-bit operand and the state after its addressing (R260). -/
def operand16 (s : State) : Src16 → Option (Word × State)
  | .imm v => some (v, s)
  | .mem m => (s.resolveEA m).map fun u => (wordAt u u.ea, u)

/-- The operand adds to its base register: `,R+` or `,R++`, indirect or not. -/
def increments (src : Src16) : Bool :=
  [IdxReg.X, .Y, .U, .S].any fun r => [false, true].any fun i =>
    src == .mem (.idx (.mode r i .inc1)) || src == .mem (.idx (.mode r i .inc2))

/-! ### Stores -/

/-- The state after the `poke`s of a list of addresses and bytes, in order. -/
def storeAll (s : State) (ps : List (Word × Byte)) : State := ps.foldl (fun s p => s.poke p.1 p.2) s

/-- What an address reads as after the stores of a list: the last that reaches its masked address wins. -/
def readAfter (s : State) (ps : List (Word × Byte)) (addr : Word) : Byte :=
  ps.foldl (fun v p => if s.mask addr = s.mask p.1 then p.2 else v) (s.peek addr)

/-- What stores leave, with the events after them and the latches cleared after them: memory, latches, devices and events are
those of the `poke`s in order. Where no window belongs to a device, that is: exactly the stored bytes read otherwise than
before, one round of notifications for each in order, no latch set, no device moved. -/
def Stores (ps : List (Word × Byte)) (after : List Event) (cleared : List IntKind) (s t : State) : Prop :=
  t.mem = (storeAll s ps).mem ∧ t.events = (storeAll s ps).events ++ after ∧ t.deviceState = (storeAll s ps).deviceState ∧
    (∀ k, t.latches.get k = ((storeAll s ps).latches.get k && !cleared.contains k)) ∧
    (s.deviceFree = true →
      (∀ addr, t.peek addr = readAfter s ps addr) ∧
      t.events = s.events ++ (ps.flatMap fun p => s.notifications (s.mask p.1) p.2) ++ after ∧
      t.deviceState = s.deviceState ∧ ∀ k, t.latches.get k = (s.latches.get k && !cleared.contains k))

/-- The stores of a 16-bit write: the high byte at the address, then the low byte above it (R65). -/
def wordStores (addr v : Word) : List (Word × Byte) :=
  [(addr, BitVec.ofNat 8 (v.toNat / 256)), (addr + 1, BitVec.ofNat 8 v.toNat)]

/-! ### Stacks -/

/-- The stores that push bytes so that they lie from an address upward: the highest first (R66). -/
def pushes (base : Word) (bs : List Byte) : List (Word × Byte) :=
  (bs.zipIdx.map fun p => (base + BitVec.ofNat 16 p.2, p.1)).reverse

/-- The bytes of a register list from the lowest address upward: bit 0 lowest, words big-endian (R474). -/
def listBytes (sp : Stack) (pb : Byte) (s : State) : List Byte :=
  (if pb.getLsbD 0 then [s.cc] else []) ++ (if pb.getLsbD 1 then [s.a] else []) ++
    (if pb.getLsbD 2 then [s.b] else []) ++ (if pb.getLsbD 3 then [s.dp] else []) ++
    (if pb.getLsbD 4 then wordBytes s.x else []) ++ (if pb.getLsbD 5 then wordBytes s.y else []) ++
    (if pb.getLsbD 6 then wordBytes (s.reg sp.other.reg) else []) ++ (if pb.getLsbD 7 then wordBytes s.pc else [])

/-- The offset of the register of bit `k` from the lowest address: one byte for each set bit below 4, two above (R474). -/
def listOffset (pb : Byte) (k : Nat) : Nat :=
  ((List.range k).map fun i => if pb.getLsbD i then (if i < 4 then 1 else 2) else 0).sum

/-- The bytes of an interrupt frame from the new S upward (R610). -/
def frameBytes (f : Stacking) (s : State) : List Byte :=
  match f with
  | .none => []
  | .pcAndCc => (s.cc &&& 0x7F) :: wordBytes s.pc
  | .entire =>
    (s.cc ||| 0x80) :: s.a :: s.b :: s.dp :: (wordBytes s.x ++ wordBytes s.y ++ wordBytes s.u ++ wordBytes s.pc)

/-- CC with E as the frame has it, before the masks are set (R610). -/
def frameCc (f : Stacking) (cc : Byte) : Byte :=
  match f with
  | .none => cc
  | .pcAndCc => cc &&& 0x7F
  | .entire => cc ||| 0x80

/-- What an entry leaves: the frame on S, CC with the masks set after the push, PC from the vector read after the push with its
`PcNotify` as the last event, the latches but for those cleared, and nothing else of registers and memory changed (R610, R612,
R614). -/
def EntryTo (f : Stacking) (masks : Byte) (vector : Word) (cleared : List IntKind) (s t : State) : Prop :=
  t.s = s.s - BitVec.ofNat 16 (frameBytes f s).length ∧
    Stores (pushes t.s (frameBytes f s)) [.pcNotify t.pc] cleared s t ∧
    t.cc = frameCc f s.cc ||| masks ∧ t.pc = wordAt t vector ∧ t.a = s.a ∧ t.b = s.b ∧ t.x = s.x ∧ t.y = s.y ∧ t.u = s.u

/-! ### Single-operand operations (R214 to R222) -/

/-- A single-operand operation: its result from the operand and the old C, the C and V it writes, and whether it is one of
those that U8 lists for H. -/
structure Unary where
  result : Byte → Bool → Byte
  carry : Byte → Option Bool
  overflow : Byte → Option Bool
  openH : Bool

def unaryNeg : Unary := ⟨fun a _ => BitVec.ofInt 8 (-a.toInt), fun a => decide (a.toNat ≠ 0), fun a => decide (a.toNat = 0x80), true⟩
def unaryInc : Unary := ⟨fun a _ => BitVec.ofNat 8 (a.toNat + 1), fun _ => none, fun a => decide (a.toNat = 0x7F), false⟩
def unaryDec : Unary := ⟨fun a _ => BitVec.ofInt 8 (a.toInt - 1), fun _ => none, fun a => decide (a.toNat = 0x80), false⟩
def unaryCom : Unary := ⟨fun a _ => BitVec.ofNat 8 (255 - a.toNat), fun _ => true, fun _ => false, false⟩
def unaryLsr : Unary := ⟨fun a _ => BitVec.ofNat 8 (a.toNat / 2), fun a => a.getLsbD 0, fun _ => none, true⟩
def unaryRor : Unary := ⟨fun a c => BitVec.ofNat 8 (128 * c.toNat + a.toNat / 2), fun a => a.getLsbD 0, fun _ => none, false⟩
def unaryAsr : Unary := ⟨fun a _ => BitVec.ofInt 8 (a.toInt / 2), fun a => a.getLsbD 0, fun _ => none, true⟩
def unaryLsl : Unary :=
  ⟨fun a _ => BitVec.ofNat 8 (2 * a.toNat), fun a => a.getLsbD 7, fun a => a.getLsbD 7 ^^ a.getLsbD 6, true⟩
def unaryRol : Unary :=
  ⟨fun a c => BitVec.ofNat 8 (2 * a.toNat + c.toNat), fun a => a.getLsbD 7, fun a => a.getLsbD 7 ^^ a.getLsbD 6, false⟩

/-- The flags after a single-operand operation on a byte. -/
def UnaryFlags (op : Unary) (a : Byte) (s t : State) : Prop :=
  FlagsNZ (op.result a (s.flag .C)) t ∧ t.flag .C = (op.carry a).getD (s.flag .C) ∧
    t.flag .V = (op.overflow a).getD (s.flag .V) ∧
    (if op.openH then OpenFlag .H s t else t.flag .H = s.flag .H) ∧ SameFlags [.N, .Z, .V, .C, .H] s t

/-! ### Branches (R420) -/

/-- The short branches with the condition each is taken on, in terms of C, Z, V, N. -/
def shortBranches : List ((Byte → Instr) × (Bool → Bool → Bool → Bool → Bool)) :=
  [(.bra, fun _ _ _ _ => true), (.brn, fun _ _ _ _ => false), (.bhi, fun c z _ _ => !c && !z),
   (.bls, fun c z _ _ => c || z), (.bcc, fun c _ _ _ => !c), (.bcs, fun c _ _ _ => c), (.bne, fun _ z _ _ => !z),
   (.beq, fun _ z _ _ => z), (.bvc, fun _ _ v _ => !v), (.bvs, fun _ _ v _ => v), (.bpl, fun _ _ _ n => !n),
   (.bmi, fun _ _ _ n => n), (.bge, fun _ _ v n => n == v), (.blt, fun _ _ v n => n != v),
   (.bgt, fun _ z v n => !z && n == v), (.ble, fun _ z v n => z || n != v)]

/-- The long branches. -/
def longBranches : List ((Word → Instr) × (Bool → Bool → Bool → Bool → Bool)) :=
  [(.lbra, fun _ _ _ _ => true), (.lbrn, fun _ _ _ _ => false), (.lbhi, fun c z _ _ => !c && !z),
   (.lbls, fun c z _ _ => c || z), (.lbcc, fun c _ _ _ => !c), (.lbcs, fun c _ _ _ => c), (.lbne, fun _ z _ _ => !z),
   (.lbeq, fun _ z _ _ => z), (.lbvc, fun _ _ v _ => !v), (.lbvs, fun _ _ v _ => v), (.lbpl, fun _ _ _ n => !n),
   (.lbmi, fun _ _ _ n => n), (.lbge, fun _ _ v n => n == v), (.lblt, fun _ _ v n => n != v),
   (.lbgt, fun _ z v n => !z && n == v), (.lble, fun _ z v n => z || n != v)]

/-! ### Steps -/

/-- The five bytes from PC on: the longest instruction (R90). -/
def stream (s : State) : List Byte :=
  [s.peek s.pc, s.peek (s.pc + 1), s.peek (s.pc + 2), s.peek (s.pc + 3), s.peek (s.pc + 4)]

/-- The page the bytes at PC select (R103, R140). -/
def pageAt (s : State) : Page :=
  if s.peek s.pc = 0x10 then .p10 else if s.peek s.pc = 0x11 then .p11 else .p0

/-- The opcode byte at PC, after the prefix if there is one (R140). -/
def opcodeAt (s : State) : Byte := if pageAt s = .p0 then s.peek s.pc else s.peek (s.pc + 1)

/-- The state in which the instruction of `n` bytes at PC runs: PC past all its bytes, its page and opcode recorded, no
`ntck`; the events are the `PcNotify` of each byte (R24, R140). -/
def fetched (s : State) (n : Nat) : State :=
  { s with
    pc := s.pc + BitVec.ofNat 16 n
    page := pageAt s
    op := opcodeAt s
    ntck := false
    events := (List.range n).map fun k => .pcNotify (s.pc + BitVec.ofNat 16 (k + 1)) }

/-- The instructions that can write PC (R39, R575). -/
def transfers : Instr → Bool
  | .tfr _ q => q == .reg .PC
  | .exg p q => p == .reg .PC || q == .reg .PC
  | .bra _ | .bhi _ | .bls _ | .bcc _ | .bcs _ | .bne _ | .beq _ | .bvc _ | .bvs _ | .bpl _ | .bmi _ | .bge _ | .blt _
  | .bgt _ | .ble _ | .lbra _ | .lbhi _ | .lbls _ | .lbcc _ | .lbcs _ | .lbne _ | .lbeq _ | .lbvc _ | .lbvs _ | .lbpl _
  | .lbmi _ | .lbge _ | .lblt _ | .lbgt _ | .lble _ | .bsr _ | .lbsr _ | .jsr _ | .rts | .jmp _ | .swi | .swi2 | .swi3
  | .rti => true
  | .puls l | .pulu l => l.getLsbD 7
  | _ => false

/-- A conditional branch whose condition does not hold in a state (R420). -/
def NotTaken (s : State) (i : Instr) : Prop :=
  (∃ p ∈ shortBranches, ∃ d, i = p.1 d ∧ p.2 (s.flag .C) (s.flag .Z) (s.flag .V) (s.flag .N) = false) ∨
    ∃ p ∈ longBranches, ∃ d, i = p.1 d ∧ p.2 (s.flag .C) (s.flag .Z) (s.flag .V) (s.flag .N) = false

/-- The opcode table has the records of the default table, as the parameter `OPCODE_TABLE` itself or as a custom table. -/
def DefaultTable (s : State) : Prop := s.cfg.opcodeTable.entries = OpcodeTable.standard.entries

/-- Whether a latched interrupt of a kind may be serviced: RESET and NMI have no mask (R601, R603). -/
def serviceable (s : State) : IntKind → Bool
  | .reset => s.latches.get .reset
  | .nmi => s.latches.get .nmi
  | .firq => s.latches.get .firq && !s.flag .F
  | .irq => s.latches.get .irq && !s.flag .I

/-- The place of a kind in the strict priority order (R606). -/
def priority : IntKind → Nat
  | .reset => 0
  | .nmi => 1
  | .firq => 2
  | .irq => 3

/-- Two decimal digits as a byte (R225). -/
def bcd (n : Nat) : Byte := BitVec.ofNat 8 (16 * (n / 10 % 10) + n % 10)

/-- A branch: taken to PC plus the displacement, or not; nothing else changes either way. -/
def Branches (taken : Bool) (target : Word) (s t : State) : Prop :=
  (if taken then Jumped target s t else Straight s t) ∧ t.cc = s.cc ∧ SameRegs [] s t ∧ SameMemory s t

/-! ### Devices (R68, D39; log 31) -/

/-- What a device does from inside `update`, in order: a latch set, or a `poke` whose own updates may stand one less deep. -/
def deviceActs (s : State) (acts : List DeviceAction) : State :=
  acts.foldl (fun s act =>
    match act with
    | .latch k => s.latch k
    | .poke addr v =>
      { State.poke { s with cfg := { s.cfg with deviceNesting := s.cfg.deviceNesting - 1 } } addr v with cfg := s.cfg }) s

/-- One owner's update: its event, then the first rule of `DEVICES` for the state of the devices, the owner, the address and
the value, if updates may stand this deep. -/
def updated (a : Nat) (v : Byte) (s : State) (w : Window) : State :=
  let told := s.emit (.windowUpdate w.owner a v)
  match s.cfg.devices.find? fun r => decide (s.cfg.deviceNesting ≠ 0 ∧ r.state = s.deviceState ∧ r.owner = w.owner ∧
      r.address.getD a = a ∧ r.value.getD v = v) with
  | none => told
  | some r => deviceActs { told with deviceState := r.next } r.actions

/-! ### Microcode (R143 to R174) -/

/-- Tokens after the one that forms the effective address of a format. -/
def addressTokens (rest : List Token) : Format → List Token
  | .dir => .drct :: rest
  | .ext => .xtnd :: rest
  | .idx => .indx :: rest
  | _ => rest

/-- Tokens after those that fetch an 8-bit operand into a scratch register. -/
def tokens8 (d : Scratch) (rest : List Token) : Format → List Token
  | .imm8 => .pcb d :: rest
  | f => addressTokens (.ftch8 d :: rest) f

/-- Tokens after those that fetch a 16-bit operand into a scratch register. -/
def tokens16 (d : Scratch) (rest : List Token) : Format → List Token
  | .imm16 => .pcw d :: rest
  | f => addressTokens (.ftch16 d :: rest) f

/-- The instructions of one operation on an accumulator and an 8-bit operand, stored (R300, R370). -/
def binaryPrograms : List (Mnemonic × Reg × AluOp) :=
  [(.adda, .A, .add8), (.addb, .B, .add8), (.adca, .A, .adc8), (.adcb, .B, .adc8), (.suba, .A, .sub8), (.subb, .B, .sub8),
   (.sbca, .A, .sbc8), (.sbcb, .B, .sbc8), (.anda, .A, .and8), (.andb, .B, .and8), (.ora, .A, .or8), (.orb, .B, .or8),
   (.eora, .A, .eor8), (.eorb, .B, .eor8)]

/-- The same, not stored (R320, R376). -/
def testPrograms : List (Mnemonic × Reg × AluOp) :=
  [(.cmpa, .A, .sub8), (.cmpb, .B, .sub8), (.bita, .A, .and8), (.bitb, .B, .and8)]

/-- The single-operand operations on an accumulator (R329, R380). -/
def unaryPrograms : List (Mnemonic × Reg × AluOp) :=
  [(.nega, .A, .neg8), (.negb, .B, .neg8), (.inca, .A, .inc8), (.incb, .B, .inc8), (.deca, .A, .dec8), (.decb, .B, .dec8),
   (.coma, .A, .com8), (.comb, .B, .com8), (.lsra, .A, .lsr8), (.lsrb, .B, .lsr8), (.rora, .A, .ror8), (.rorb, .B, .ror8),
   (.asra, .A, .asr8), (.asrb, .B, .asr8), (.lsla, .A, .lsl8), (.lslb, .B, .lsl8), (.rola, .A, .rol8), (.rolb, .B, .rol8)]

/-- The single-operand operations on a memory byte. -/
def memoryPrograms : List (Mnemonic × AluOp) :=
  [(.neg, .neg8), (.inc, .inc8), (.dec, .dec8), (.com, .com8), (.lsr, .lsr8), (.ror, .ror8), (.asr, .asr8), (.lsl, .lsl8),
   (.rol, .rol8)]

/-- The 16-bit loads and stores, by their register (R263, R272). -/
def wordPrograms : List (Mnemonic × Mnemonic × Reg) :=
  [(.ldd, .std, .D), (.ldx, .stx, .X), (.ldy, .sty, .Y), (.ldu, .stu, .U), (.lds, .sts, .S)]

/-- The 16-bit compares that read their register after the operand (R322, R324 to R326). -/
def wordCompares : List (Mnemonic × Reg) := [(.cmpd, .D), (.cmpy, .Y), (.cmpu, .U), (.cmps, .S)]

/-- The program of CMPX, by the first operand byte: X is loaded before the operand where that is the postbyte of `,R+` or `,R++`,
indirect or not (R98, R323), and after it elsewhere. -/
def cmpxTokens (f : Format) (postbyte : Byte) : List Token :=
  if f = .idx ∧ postbyte &&& 0x8E = 0x80 then .ld1 .X :: tokens16 .r2 [.alu .sub16] f
  else tokens16 .r2 [.ld1 .X, .alu .sub16] f

/-- The conditional branches, short and long, with their `chk` operand and exit token (R420). -/
def branchPrograms : List (Mnemonic × Mnemonic × ChkCond × Token) :=
  [(.bhi, .lbhi, .LS, .qt), (.bls, .lbls, .LS, .qf), (.bcc, .lbcc, .C, .qt), (.bcs, .lbcs, .C, .qf), (.bne, .lbne, .Z, .qt),
   (.beq, .lbeq, .Z, .qf), (.bvc, .lbvc, .V, .qt), (.bvs, .lbvs, .V, .qf), (.bpl, .lbpl, .N, .qt), (.bmi, .lbmi, .N, .qf),
   (.bge, .lbge, .LT, .qt), (.blt, .lblt, .LT, .qf), (.bgt, .lbgt, .LE, .qt), (.ble, .lble, .LE, .qf)]

/-- The programs that are the same in every format, or have one. -/
def plainPrograms : List (Mnemonic × Format × List Token) :=
  [(.leas, .idx, [.indx, .stEa .S]), (.leau, .idx, [.indx, .stEa .U]), (.bra, .rel8, [.rel8, .stEa .PC, .ntck]),
   (.lbra, .rel16, [.rel16, .stEa .PC, .ntck]), (.brn, .rel8, [.rel8]), (.lbrn, .rel16, [.rel16]),
   (.tfr, .rpair, [.rgop false]), (.exg, .rpair, [.rgop true]), (.tsta, .inh, [.ld1 .A, .alu .tst8]),
   (.tstb, .inh, [.ld1 .B, .alu .tst8]), (.clra, .inh, [.alu .clr8, .st1 .A]), (.clrb, .inh, [.alu .clr8, .st1 .B]),
   (.mul, .inh, [.alu .mul]), (.daa, .inh, [.alu .daa]), (.abx, .inh, [.alu .abx]), (.swi, .inh, [.swi .swi]),
   (.swi2, .inh, [.swi .swi2]), (.swi3, .inh, [.swi .swi3]), (.rti, .inh, [.rti]), (.sync, .inh, [.sync]), (.nop, .inh, [.nop])]

/-- A program of tokens has exactly the effect the instruction rules give a mnemonic. -/
def SameProgram (m : Mnemonic) (f : Format) (ts : List Token) : Prop :=
  ∀ s : State, s.runMicrocode f ts = s.runMeaning f m

end Sys2Proof.Claims

open Sys2Proof Sys2Proof.Machine Sys2Proof.Claims

/-! ### Encoding -/

/-- Decoding the encoding of a well-formed instruction gives it back, whatever bytes follow; the two page-prefix entries,
which are no instruction on their own (R490), apart. -/
def Obligations.DecodeEncodeRoundTrip : Prop :=
  ∀ (i : Instr) (rest : List Byte), i.wf = true → i.selectsPage = .p0 →
    decode (encode i ++ rest) = .instr i (encode i).length

/-- Each decoded instruction, ill-formed postbytes included, encodes to the bytes it was read from, one to five of them: no
bit of an instruction is dropped. -/
def Obligations.EncodeDecodeRoundTrip : Prop :=
  ∀ (bs : List Byte) (i : Instr) (n : Nat), decode bs = .instr i n → encode i = bs.take n ∧ 1 ≤ n ∧ n ≤ 5 ∧ n ≤ bs.length

/-- Words written out from the spec's encodings decode to the instruction they stand for. -/
def Obligations.DecodeSampleWords : Prop :=
  decode [0x86, 0x41] = .instr (.lda (.imm 0x41)) 2 ∧ decode [0xB7, 0x50, 0x10] = .instr (.sta (.ext 0x5010)) 3 ∧
  decode [0x10, 0x8E, 0x12, 0x34] = .instr (.ldy (.imm 0x1234)) 4 ∧
  decode [0xAB, 0x80] = .instr (.adda (.mem (.idx (.mode .X false .inc1)))) 2 ∧
  decode [0xA6, 0x9F, 0xC0, 0x00] = .instr (.lda (.mem (.idx (.mode .X true (.abs 0xC000))))) 4 ∧
  decode [0x1F, 0x8B] = .instr (.tfr (.reg .A) (.reg .DP)) 2 ∧ decode [0x26, 0xFB] = .instr (.bne 0xFB) 2 ∧
  decode [0x34, 0x16] = .instr (.pshs 0x16) 2 ∧ decode [0x11, 0x3F] = .instr .swi3 2 ∧
  decode [0x44] = .instr .lsra 1 ∧ decode [0x10, 0x10, 0x8E] = .illegal 0x10 .p10 2 ∧
  decode [0xA6, 0x87] = .instr (.lda (.mem (.idx (.mode .X false (.undefined 7))))) 2

/-- The unassigned slots of page 0 are exactly the 33 of R118, and no page assigns a second prefix. -/
def Obligations.UnassignedSlots : Prop :=
  (∀ b : Byte, opFind b .p0 = none ↔
    b ∈ [0x01#8, 0x02, 0x05, 0x0B, 0x14, 0x15, 0x18, 0x1B, 0x38, 0x3E, 0x41, 0x42, 0x45, 0x4B, 0x4E, 0x51, 0x52, 0x55,
      0x5B, 0x5E, 0x61, 0x62, 0x65, 0x6B, 0x71, 0x72, 0x75, 0x7B, 0x87, 0x8F, 0xC7, 0xCD, 0xCF]) ∧
  (∀ b : Byte, opFind b .p10 ≠ none ↔
    b ∈ [0x21#8, 0x22, 0x23, 0x24, 0x25, 0x26, 0x27, 0x28, 0x29, 0x2A, 0x2B, 0x2C, 0x2D, 0x2E, 0x2F, 0x3F, 0x83, 0x93, 0xA3,
      0xB3, 0x8C, 0x9C, 0xAC, 0xBC, 0x8E, 0x9E, 0xAE, 0xBE, 0x9F, 0xAF, 0xBF, 0xCE, 0xDE, 0xEE, 0xFE, 0xDF, 0xEF, 0xFF]) ∧
  (∀ b : Byte, opFind b .p11 ≠ none ↔ b ∈ [0x3F#8, 0x83, 0x93, 0xA3, 0xB3, 0x8C, 0x9C, 0xAC, 0xBC])

/-! ### Steps -/

/-- When the bytes at PC decode to an instruction, a step of a Running machine is that instruction's meaning in the state with
PC past it, then the end of the cycle and the interrupt check. Over a custom table, a record of page 0 that is no prefix runs
its own program in the state with PC past the opcode byte. -/
def Obligations.StepRunsDecoded : Prop :=
  (∀ (s : State) (i : Instr) (n : Nat), DefaultTable s → s.run = .running → decode (stream s) = .instr i n →
    step s = onNext (exec i (fetched s n)) fun t => .next t.endCycle.checkInterrupts) ∧
  (∀ (s : State) (es : List TableEntry) (e : TableEntry), s.cfg.opcodeTable = .custom es → s.run = .running →
    es.find? (fun e => e.opcode == s.peek s.pc && e.page == .p0) = some e → e.format ≠ .pager →
    step s = onNext (State.runMicrocode { s with
      pc := s.pc + 1
      page := .p0
      op := s.peek s.pc
      ntck := false
      events := [.pcNotify (s.pc + 1)] } e.format e.microcode) fun t => .next t.endCycle.checkInterrupts)

/-- A byte with no entry on its page: the event, PC past the bytes fetched, nothing else; then PcNotify and the check. In a
custom table, a record of page 0 whose program begins with `err` does the same (R175). -/
def Obligations.StepIllegalOpcode : Prop :=
  let raised (s : State) (o : Byte) (p : Page) (n : Nat) : State := State.checkInterrupts { s with
    pc := s.pc + BitVec.ofNat 16 n
    page := .p0
    op := o
    ntck := false
    illegalCount := s.illegalCount + 1
    events := ((List.range n).map fun k => .pcNotify (s.pc + BitVec.ofNat 16 (k + 1))) ++
      [.illegalOpcode o p, .pcNotify (s.pc + BitVec.ofNat 16 n)] }
  (∀ (s : State) (o : Byte) (p : Page) (n : Nat), DefaultTable s → s.run = .running → decode (stream s) = .illegal o p n →
    s.cfg.illegalPolicy = .proceed →
    step s = .next (raised s o p n) ∧ p = pageAt s ∧ o = opcodeAt s ∧ n = (if p = .p0 then 1 else 2)) ∧
  (∀ (s : State) (es : List TableEntry), s.cfg.opcodeTable = .custom es → s.run = .running →
    s.cfg.illegalPolicy = .proceed →
    (∀ e, es.find? (fun e => e.opcode == s.peek s.pc && e.page == .p0) = some e → ∃ ts, e.microcode = .err :: ts) →
    step s = .next (raised s (s.peek s.pc) .p0 1))

/-- An undefined postbyte code raises IllegalOpcode in every instruction that can hold one, with no other effect. -/
def Obligations.UndefinedPostbyteRaises : Prop :=
  ∀ (i : Instr) (s : State), i.wf = false → s.cfg.illegalPolicy = .proceed →
    exec i s = .next { s with
      page := .p0
      illegalCount := s.illegalCount + 1
      events := s.events ++ [.illegalOpcode s.op s.page] }

/-- Every well-formed instruction completes in every state. -/
def Obligations.WellFormedCompletes : Prop := ∀ (i : Instr) (s : State), i.wf = true → ∃ t, exec i s = .next t

/-- Nothing in the block faults: under the default policy every step answers a next state, over the default table and over
every custom one whose prefix records are of page 0 with the program `page`; no step and no instruction is refused; only the
driver's policy on an IllegalOpcode event stops an instruction. -/
def Obligations.NothingFaults : Prop :=
  (∀ s : State, s.cfg.illegalPolicy = .proceed →
    (∀ e ∈ s.cfg.opcodeTable.entries, e.format = .pager → e.page = .p0 ∧ e.microcode = [.page]) → ∃ t, step s = .next t) ∧
  (∀ (s : State) (r : Refusal), step s ≠ .refused r) ∧
  (∀ (i : Instr) (s : State) (r : Refusal), exec i s ≠ .refused r) ∧
  (∀ (i : Instr) (s : State) (f : Fault), exec i s = .fault f →
    i.wf = false ∧ f = .illegalOpcode s.op s.page ∧ ∃ n, s.cfg.illegalPolicy = .haltAfter n ∧ n ≤ s.illegalCount + 1)

/-- The invariant is kept by every step: memory canonical, inside the array, page 0 between commands. -/
def Obligations.StepKeepsInv : Prop := ∀ s t : State, s.Inv → step s = .next t → t.Inv

/-- The invariant holds after reset, and the machine after reset is the newly built default machine after the service of its
reset latch (R641; that it is this state is the model's reading, log 1, over the register values of log 2 and the memory of
log 3). -/
def Obligations.ResetHasInv : Prop :=
  State.reset.Inv ∧
    State.reset = { ((State.construct defaultConfig defaultInit).latch .reset).checkInterrupts with events := [] }

/-- A step never changes the parameters, the windows or the encoder, counts at most one IllegalOpcode event, never fewer than
before, and sets no latch where no window belongs to a device. -/
def Obligations.StepKeepsParameters : Prop :=
  ∀ s t : State, step s = .next t →
    t.cfg = s.cfg ∧ t.windows = s.windows ∧ t.nextHandle = s.nextHandle ∧ t.asm = s.asm ∧
    (s.deviceFree = true → ∀ k, t.latches.get k = true → s.latches.get k = true) ∧
    (t.illegalCount = s.illegalCount ∨
      t.illegalCount = s.illegalCount + 1 ∧ ∃ o p, Event.illegalOpcode o p ∈ t.events)

/-- While Waiting or Syncing a step fetches nothing: only the interrupt check runs. A masked latch ends Syncing and not
Waiting. -/
def Obligations.StepIdle : Prop :=
  ∀ s : State, s.run ≠ .running →
    ((∀ k, serviceable s k = false) → s.run = .waiting ∨ s.latches.any = false → step s = .next { s with events := [] }) ∧
    ((∀ k, serviceable s k = false) → s.run = .syncing → s.latches.any = true →
      step s = .next { s with events := [], run := .running }) ∧
    (∀ k, serviceable s k = true → (∀ j, priority j < priority k → serviceable s j = false) →
      step s = .next (State.service { s with events := [], run := if s.run = .syncing then .running else s.run } k))

/-- The decoder gives every instruction the length the engine fetches, branches, calls, jumps and returns included; one that
writes no PC, or a branch not taken, ends its step at PC plus that length. A marker line's length is 1, or 2 after a prefix; its
step ends there, with the IllegalOpcode event. A step's end is stated with nothing latched, before and by a device: what the
interrupt check then does is `CheckServicesHighestPriority`. -/
def Obligations.DecoderAgreesOnBoundaries : Prop :=
  ∀ (s : State) (labels : List Label), DefaultTable s →
    (∀ (i : Instr) (n : Nat), decode (stream s) = .instr i n →
      (s.decodeOne labels s.pc.toNat).1 = n ∧
      (s.run = .running → s.cfg.illegalPolicy = .proceed → s.latches = .clear → s.deviceFree = true →
        transfers i = false ∨ NotTaken s i → ∃ t, step s = .next t ∧ t.pc = s.pc + BitVec.ofNat 16 n)) ∧
    (∀ (o : Byte) (p : Page) (n : Nat), decode (stream s) = .illegal o p n →
      (s.decodeOne labels s.pc.toNat).1 = n ∧ n = (if p = .p0 then 1 else 2) ∧
      (s.run = .running → s.cfg.illegalPolicy = .proceed → s.latches = .clear →
        ∃ t, step s = .next t ∧ t.pc = s.pc + BitVec.ofNat 16 n ∧ .illegalOpcode o p ∈ t.events))

/-! ### Interrupts -/

/-- A check services exactly the serviceable interrupt of highest priority and no other, and the machine is Running after it with
that latch cleared; the other latches are as before where no window belongs to a device. Any latch ends Syncing first,
serviceable or not; with nothing serviceable nothing else changes. That exactly one is serviced is the spec's decision D12
(R606, U12); that any latch ends Syncing is R607, the cleared latch R610, the run state R610 and R612. -/
def Obligations.CheckServicesHighestPriority : Prop :=
  ∀ s : State,
    let awake : State := { s with run := if s.run = .syncing ∧ s.latches.any = true then .running else s.run }
    (∀ k, serviceable s k = true → (∀ j, priority j < priority k → serviceable s j = false) →
      s.checkInterrupts = awake.service k ∧ s.checkInterrupts.run = .running ∧ s.checkInterrupts.latches.get k = false ∧
        (s.deviceFree = true → ∀ j, j ≠ k → s.checkInterrupts.latches.get j = s.latches.get j)) ∧
    ((∀ k, serviceable s k = false) → s.checkInterrupts = awake)

/-- NMI, FIRQ and IRQ entry: the frame, the masks after the push, the vector, the latch, the run state; out of a CWAI that has
stacked already, no frame. The layout of the frame is the spec's decision D11 (R610), the masks D10, the vector addresses D9
(R611), and that no frame is pushed out of such a CWAI is R608 and D14. -/
def Obligations.ServiceEntry : Prop :=
  ∀ (s : State) (k : IntKind), k ≠ .reset → Memory.wf s.mem = true →
    EntryTo (if s.run = .waiting ∧ s.cfg.cwaiPrestack = true then .none else if k = .firq then .pcAndCc else .entire)
      (if k = .irq then 0x10 else 0x50) (k.vector s.cfg.vectors) [k] s (s.service k) ∧
    (s.service k).dp = s.dp ∧ (s.service k).run = .running ∧ (s.service k).page = s.page ∧ (s.service k).windows = s.windows ∧
    (s.service k).cfg = s.cfg ∧ (s.service k).asm = s.asm ∧ (s.service k).illegalCount = s.illegalCount

/-- The reset service: what RESET_STACKING says on S, I and F set, PC from the RESET vector, DP cleared only when
RESET_CLEARS_DP, the reset latch alone cleared, the run state Running. That a frame is pushed out of a CWAI that has stacked
already too is the model's choice (log 35). -/
def Obligations.ResetService : Prop :=
  ∀ s : State, Memory.wf s.mem = true →
    EntryTo s.cfg.resetStacking 0x50 s.cfg.vectors.reset [.reset] s (s.service .reset) ∧
    (s.service .reset).dp = (if s.cfg.resetClearsDp then 0 else s.dp) ∧
    (s.service .reset).run = .running ∧ (s.service .reset).page = s.page ∧ (s.service .reset).windows = s.windows ∧
    (s.service .reset).cfg = s.cfg ∧ (s.service .reset).asm = s.asm ∧
    (s.service .reset).illegalCount = s.illegalCount

/-- `Latch(kind)` sets that latch and nothing else, whatever it was before (R604); `Stop` makes the run state Running and
changes nothing else, which is the spec's decision D26 (R147). -/
def Obligations.LatchAndStop : Prop :=
  ∀ s : State,
    (∀ k, (s.latch k).latches.get k = true ∧ (∀ j, j ≠ k → (s.latch k).latches.get j = s.latches.get j) ∧
      s.latch k = { s with latches := (s.latch k).latches }) ∧
    s.stop = { s with run := .running }

/-- An interrupt service or a software interrupt followed by RTI restores every register, S and PC; CC comes back with E as the
frame had it. The frame must not fold onto itself (12 bytes of memory at least), and no device may store on it. -/
def Obligations.ReturnUndoesEntry : Prop :=
  ∀ s : State, Memory.wf s.mem = true → 12 ≤ s.memSize → s.deviceFree = true →
    (∀ k ∈ [IntKind.nmi, .irq, .firq], (s.run = .waiting → s.cfg.cwaiPrestack = false) →
      ∃ t, exec .rti (s.service k) = .next t ∧ SameRegs [] s t ∧ t.pc = s.pc ∧
        t.cc = if k = .firq then s.cc &&& 0x7F else s.cc ||| 0x80) ∧
    (∀ i ∈ [Instr.swi, .swi2, .swi3], ∃ t u, exec i s = .next t ∧ exec .rti t = .next u ∧
      SameRegs [] s u ∧ u.pc = s.pc ∧ u.cc = s.cc ||| 0x80)

/-! ### The memory port, the register file, addressing -/

/-- `poke` stores at the masked address and tells the windows that cover it, in registration order; it changes memory, the
events and, through devices, the latches and their state at most. Where no window belongs to a device, only the byte and the
events change. -/
def Obligations.PokeStoresAndNotifies : Prop :=
  ∀ (s : State) (addr : Word) (v : Byte),
    let a := addr.toNat % s.memSize
    let told : List Event := (s.windows.filter fun w => decide (w.base ≤ a ∧ a < w.base + w.length)).map
      fun w => .windowUpdate w.owner a v
    let t := s.poke addr v
    t = { s with mem := t.mem, events := t.events, latches := t.latches, deviceState := t.deviceState } ∧
    (∃ es, t.events = s.events ++ es ∧ told.Sublist es) ∧
    (s.deviceFree = true → Memory.wf s.mem = true →
      (∀ b : Word, t.peek b = if b.toNat % s.memSize = a then v else s.peek b) ∧ t.events = s.events ++ told ∧
      t.latches = s.latches ∧ t.deviceState = s.deviceState)

/-- `poke` with devices: the store, then each covering window's update in registration order, synchronous, each device acting
before the next owner is told; a device's own `poke` is a `poke` with its own updates. The environment of devices as rules, and
the bound on updates inside updates, are the model's (log 31). -/
def Obligations.DevicesAnswerUpdates : Prop :=
  ∀ (s : State) (addr : Word) (v : Byte),
    let a := addr.toNat % s.memSize
    s.poke addr v = (s.windows.filter fun w => decide (w.base ≤ a ∧ a < w.base + w.length)).foldl (updated a v)
      { s with mem := Memory.write a v s.mem }

/-- A word is big-endian, the high byte at the lower address, and its two bytes are two accesses, the high byte first. -/
def Obligations.WordsAreBigEndian : Prop :=
  ∀ (s : State) (addr v : Word), Memory.wf s.mem = true →
    s.memWrite16 addr v = storeAll s (wordStores addr v) ∧
    (s.memRead16 addr).toNat = 256 * (s.peek addr).toNat + (s.peek (addr + 1)).toNat ∧
    (s.deviceFree = true →
      (∀ b : Word, (s.memWrite16 addr v).peek b =
        if s.mask b = s.mask (addr + 1) then BitVec.ofNat 8 v.toNat
        else if s.mask b = s.mask addr then BitVec.ofNat 8 (v.toNat / 256) else s.peek b) ∧
      (s.memWrite16 addr v).events = s.events ++ s.notifications (s.mask addr) (BitVec.ofNat 8 (v.toNat / 256)) ++
        s.notifications (s.mask (addr + 1)) (BitVec.ofNat 8 v.toNat) ∧
      (s.mask (addr + 1) ≠ s.mask addr → (s.memWrite16 addr v).memRead16 addr = v))

/-- `fill` is the `poke`s of its bytes in order from the masked address, those that would lie past the top of memory left out
without error, and answers the last address used plus one; where no window belongs to a device, the bytes laid and a round of
notifications for each are all that changes. -/
def Obligations.FillStopsAtTheTop : Prop :=
  ∀ (s : State) (addr : Word) (bs : List Byte), Memory.wf s.mem = true →
    let laid := (bs.take (s.memSize - s.mask addr)).zipIdx
    s.fill addr bs = (storeAll s (laid.map fun p => (BitVec.ofNat 16 (s.mask addr + p.2), p.1)),
      min (s.mask addr + bs.length) s.memSize) ∧
    (s.deviceFree = true →
      (∀ b : Word, (s.fill addr bs).1.peek b =
        if s.mask addr ≤ s.mask b then bs.getD (s.mask b - s.mask addr) (s.peek b) else s.peek b) ∧
      (s.fill addr bs).1.events = s.events ++ (laid.flatMap fun p => s.notifications (s.mask addr + p.2) p.1) ∧
      (s.fill addr bs).1 = { s with mem := (s.fill addr bs).1.mem, events := (s.fill addr bs).1.events })

/-- A register write is masked to the register's width and is seen by the next read; D is A and B; no other two registers
alias; only a write of PC emits an event. -/
def Obligations.RegisterFile : Prop :=
  ∀ (s : State) (r : Reg) (v : Word),
    (s.setReg r v).reg r = narrow r v ∧ SameRegs (parts r) s (s.setReg r v) ∧ (r ≠ .PC → (s.setReg r v).pc = s.pc) ∧
    (r ≠ .CC → (s.setReg r v).cc = s.cc) ∧ (s.reg .D).toNat = 256 * s.a.toNat + s.b.toNat ∧
    (s.setReg r v).events = (if r = .PC then s.events ++ [.pcNotify v] else s.events)

/-- The effective address and the base register's update of every indexed form, as R156's table gives them. That `[,R+]` and
`[,-R]` run, that code 0xF without the indirect bit runs as the absolute form, and that the register bits of codes 0xC, 0xD and
0xF select nothing, is the model's reading (log 27; D18, U5). -/
def Obligations.IndexedAddress : Prop :=
  ∀ (s : State) (r : IdxReg),
    (∀ n : BitVec 5, s.indx (.off5 r n) = some { s with ea := s.reg (baseReg r) + BitVec.ofInt 16 n.toInt }) ∧
    ∀ ind : Bool,
      let R := baseReg r
      let through : State → Option State := fun u => some (if ind then { u with ea := wordAt u u.ea } else u)
      s.indx (.mode r ind .inc1) = through { s.setReg R (s.reg R + 1) with ea := s.reg R } ∧
      s.indx (.mode r ind .inc2) = through { s.setReg R (s.reg R + 2) with ea := s.reg R } ∧
      s.indx (.mode r ind .dec1) = through { s.setReg R (s.reg R - 1) with ea := s.reg R - 1 } ∧
      s.indx (.mode r ind .dec2) = through { s.setReg R (s.reg R - 2) with ea := s.reg R - 2 } ∧
      s.indx (.mode r ind .zero) = through { s with ea := s.reg R } ∧
      s.indx (.mode r ind .accB) = through { s with ea := s.reg R + signed8 s.b } ∧
      s.indx (.mode r ind .accA) = through { s with ea := s.reg R + signed8 s.a } ∧
      (∀ n, s.indx (.mode r ind (.off8 n)) = through { s with ea := s.reg R + signed8 n }) ∧
      (∀ n, s.indx (.mode r ind (.off16 n)) = through { s with ea := s.reg R + n }) ∧
      s.indx (.mode r ind .accD) = through { s with ea := s.reg R + s.reg .D } ∧
      (∀ n, s.indx (.mode r ind (.pcr8 n)) = through { s with ea := s.pc + signed8 n }) ∧
      (∀ n, s.indx (.mode r ind (.pcr16 n)) = through { s with ea := s.pc + n }) ∧
      (∀ w, s.indx (.mode r ind (.abs w)) = through { s with ea := w }) ∧
      (∀ c, s.indx (.mode r ind (.undefined c)) = none)

/-- Resolving an address succeeds exactly on a well-formed operand, and changes EA and the base register of an indexed operand
at most. -/
def Obligations.AddressingFrame : Prop :=
  ∀ (s : State) (m : MemOp),
    (s.resolveEA m).isSome = m.wf ∧
    (∀ lo, m = .dir lo → s.resolveEA m = some { s with ea := BitVec.ofNat 16 (256 * s.dp.toNat + lo.toNat) }) ∧
    (∀ a, m = .ext a → s.resolveEA m = some { s with ea := a }) ∧
    ∀ u, s.resolveEA m = some u → u = { s with ea := u.ea, x := u.x, y := u.y, u := u.u, s := u.s } ∧
      (∀ r n, m = .idx (.off5 r n) → SameRegs [] s u) ∧
      (∀ r ind i, m = .idx (.mode r ind i) → SameRegs [baseReg r] s u)

/-! ### Load, store, transfer -/

/-- LDA, LDB. -/
def Obligations.LoadByte : Prop :=
  ∀ p ∈ [(Instr.lda, Reg.A), (.ldb, .B)], ∀ (src : Src8) (s : State), src.wf = true →
    ∃ v u t, operand8 s src = some (v, u) ∧ exec (p.1 src) s = .next t ∧ t.reg p.2 = v.setWidth 16 ∧
      FlagsNZ v t ∧ t.flag .V = false ∧ SameFlags [.N, .Z, .V] s t ∧ SameRegs [p.2] u t ∧ Quiet s t

/-- LDD, LDX, LDY, LDU, LDS. -/
def Obligations.LoadWord : Prop :=
  ∀ p ∈ [(Instr.ldd, Reg.D), (.ldx, .X), (.ldy, .Y), (.ldu, .U), (.lds, .S)], ∀ (src : Src16) (s : State), src.wf = true →
    ∃ v u t, operand16 s src = some (v, u) ∧ exec (p.1 src) s = .next t ∧ t.reg p.2 = v ∧
      FlagsNZ v t ∧ t.flag .V = false ∧ SameFlags [.N, .Z, .V] s t ∧ SameRegs (parts p.2) u t ∧ Quiet s t

/-- STA, STB: the byte stored is the register's after the addressing. -/
def Obligations.StoreByte : Prop :=
  ∀ p ∈ [(Instr.sta, Reg.A), (.stb, .B)], ∀ (m : MemOp) (s : State), m.wf = true → Memory.wf s.mem = true →
    ∃ u t, s.resolveEA m = some u ∧ exec (p.1 m) s = .next t ∧
      let v : Byte := (s.reg p.2).setWidth 8
      Stores [(u.ea, v)] [] [] s t ∧
      FlagsNZ v t ∧ t.flag .V = false ∧ SameFlags [.N, .Z, .V] s t ∧ SameRegs [] u t ∧ Straight s t

/-- STD, STX, STY, STU, STS: the word stored is the register's after the addressing (R156, D20). -/
def Obligations.StoreWord : Prop :=
  ∀ p ∈ [(Instr.std, Reg.D), (.stx, .X), (.sty, .Y), (.stu, .U), (.sts, .S)], ∀ (m : MemOp) (s : State), m.wf = true →
    Memory.wf s.mem = true →
    ∃ u t, s.resolveEA m = some u ∧ exec (p.1 m) s = .next t ∧
      let v : Word := u.reg p.2
      Stores (wordStores u.ea v) [] [] s t ∧
      FlagsNZ v t ∧ t.flag .V = false ∧ SameFlags [.N, .Z, .V] s t ∧ SameRegs [] u t ∧ Straight s t

/-- LEAX and LEAY write the effective address and Z; LEAS and LEAU write the effective address and no flag. -/
def Obligations.LoadEffectiveAddress : Prop :=
  (∀ p ∈ [(Instr.leax, Reg.X), (.leay, .Y)], ∀ (ix : Index) (s : State), ix.wf = true →
    ∃ u t, s.indx ix = some u ∧ exec (p.1 ix) s = .next t ∧ t.reg p.2 = u.ea ∧
      t.flag .Z = decide (u.ea.toNat = 0) ∧ SameFlags [.Z] s t ∧ SameRegs [p.2] u t ∧ Quiet s t) ∧
  (∀ p ∈ [(Instr.leas, Reg.S), (.leau, .U)], ∀ (ix : Index) (s : State), ix.wf = true →
    ∃ u t, s.indx ix = some u ∧ exec (p.1 ix) s = .next t ∧ t.reg p.2 = u.ea ∧
      t.cc = s.cc ∧ SameRegs [p.2] u t ∧ Quiet s t)

/-- TFR between any two registers, PC, CC and mixed widths included: the destination holds the source masked to its width. EXG
between any two registers: each receives the other's old value, masked to its width; for a pair that names D and one of its
halves, the second write of R291 lands on the first. -/
def Obligations.TransferAndExchange : Prop :=
  (∀ (p q : Reg) (s : State), ∃ t, exec (.tfr (.reg p) (.reg q)) s = .next t ∧
    t.reg q = narrow q (s.reg p) ∧ SameRegs (parts q) s t ∧ (q ≠ .CC → t.cc = s.cc) ∧ (q ≠ .PC → t.pc = s.pc) ∧
    t.events = (if q = .PC then s.events ++ [.pcNotify (s.reg p)] else s.events) ∧ t.ntck = s.ntck ∧
    SameMemory s t ∧ SameRest s t) ∧
  (∀ (p q : Reg) (s : State), ∃ t, exec (.exg (.reg p) (.reg q)) s = .next t ∧
    t.reg q = narrow q (s.reg p) ∧ ((∀ r ∈ parts p, r ∉ parts q) ∨ p = q → t.reg p = narrow p (s.reg q)) ∧
    (p = .D → q = .A → t.b = s.a) ∧ (p = .D → q = .B → t.a = 0) ∧
    SameRegs (parts p ++ parts q) s t ∧ (p ≠ .CC → q ≠ .CC → t.cc = s.cc) ∧ (p ≠ .PC → q ≠ .PC → t.pc = s.pc) ∧
    t.ntck = s.ntck ∧ SameMemory s t ∧ SameRest s t)

/-! ### Arithmetic -/

/-- ADDA, ADDB, ADCA, ADCB: the sum with the carry in, and H, N, Z, V, C by their laws. -/
def Obligations.AddByte : Prop :=
  ∀ p ∈ [(Instr.adda, Reg.A, false), (.addb, .B, false), (.adca, .A, true), (.adcb, .B, true)], ∀ (src : Src8) (s : State),
    src.wf = true → ∃ b u t, operand8 s src = some (b, u) ∧ exec (p.1 src) s = .next t ∧
      let a : Byte := (s.reg p.2.1).setWidth 8
      let c : Bool := p.2.2 && s.flag .C
      let r : Byte := BitVec.ofNat 8 (a.toNat + b.toNat + c.toNat)
      t.reg p.2.1 = r.setWidth 16 ∧ FlagsNZ r t ∧ t.flag .C = decide (255 < a.toNat + b.toNat + c.toNat) ∧
      t.flag .V = decide (a.toInt + b.toInt + c.toNat < -128 ∨ 127 < a.toInt + b.toInt + c.toNat) ∧
      t.flag .H = decide (15 < a.toNat % 16 + b.toNat % 16 + c.toNat) ∧
      SameFlags [.N, .Z, .V, .C, .H] s t ∧ SameRegs [p.2.1] u t ∧ Quiet s t

/-- SUBA, SUBB, SBCA, SBCB, CMPA, CMPB: the difference with the borrow in, and N, Z, V, C by their laws; a compare keeps the
register. -/
def Obligations.SubtractByte : Prop :=
  ∀ p ∈ [(Instr.suba, Reg.A, false, true), (.subb, .B, false, true), (.sbca, .A, true, true), (.sbcb, .B, true, true),
      (.cmpa, .A, false, false), (.cmpb, .B, false, false)], ∀ (src : Src8) (s : State),
    src.wf = true → ∃ b u t, operand8 s src = some (b, u) ∧ exec (p.1 src) s = .next t ∧
      let a : Byte := (s.reg p.2.1).setWidth 8
      let c : Bool := p.2.2.1 && s.flag .C
      let r : Byte := BitVec.ofInt 8 (a.toInt - b.toInt - c.toNat)
      t.reg p.2.1 = (if p.2.2.2 then r.setWidth 16 else s.reg p.2.1) ∧ FlagsNZ r t ∧
      t.flag .C = decide (a.toNat < b.toNat + c.toNat) ∧
      t.flag .V = decide (a.toInt - b.toInt - c.toNat < -128 ∨ 127 < a.toInt - b.toInt - c.toNat) ∧
      OpenFlag .H s t ∧ SameFlags [.N, .Z, .V, .C, .H] s t ∧ SameRegs [p.2.1] u t ∧ Quiet s t

/-- ADDD, SUBD, CMPD. -/
def Obligations.WordArithmeticOnD : Prop :=
  ∀ p ∈ [(Instr.addd, true, true), (.subd, false, true), (.cmpd, false, false)], ∀ (src : Src16) (s : State),
    src.wf = true → ∃ b u t, operand16 s src = some (b, u) ∧ exec (p.1 src) s = .next t ∧
      let d : Word := s.reg .D
      let r : Word := if p.2.1 then d + b else d - b
      let exact : Int := if p.2.1 then d.toInt + b.toInt else d.toInt - b.toInt
      t.reg .D = (if p.2.2 then r else d) ∧ FlagsNZ r t ∧
      t.flag .C = (if p.2.1 then decide (65535 < d.toNat + b.toNat) else decide (d.toNat < b.toNat)) ∧
      t.flag .V = decide (exact < -32768 ∨ 32767 < exact) ∧
      (if p.2.1 then t.flag .H = s.flag .H else OpenFlag .H s t) ∧
      SameFlags [.N, .Z, .V, .C, .H] s t ∧ SameRegs [.A, .B] u t ∧ Quiet s t

/-- CMPX, CMPY, CMPU, CMPS: the flags of the register less the operand. With an auto-increment
CMPX compares the old X, as R323 says of `CMPX ,X++`; every other operand, and CMPY, CMPU and CMPS with every operand, compares
the register the addressing leaves, as the steps and D20 say. Where an operand's own auto-increment or auto-decrement makes the
two differ, that is the model's reading (log 10). -/
def Obligations.CompareIndexRegister : Prop :=
  ∀ p ∈ [(Instr.cmpx, Reg.X, true), (.cmpy, .Y, false), (.cmpu, .U, false), (.cmps, .S, false)], ∀ (src : Src16) (s : State),
    src.wf = true → ∃ b u t, operand16 s src = some (b, u) ∧ exec (p.1 src) s = .next t ∧
      let a : Word := (if p.2.2 && increments src then s else u).reg p.2.1
      FlagsNZ (a - b) t ∧ t.flag .C = decide (a.toNat < b.toNat) ∧
      t.flag .V = decide (a.toInt - b.toInt < -32768 ∨ 32767 < a.toInt - b.toInt) ∧
      OpenFlag .H s t ∧ SameFlags [.N, .Z, .V, .C, .H] s t ∧ SameRegs [] u t ∧ Quiet s t

/-- After a compare, LT, LE, LS, C and Z read as the signed and unsigned order of the operands, in both widths. -/
def Obligations.ComparisonConditions : Prop :=
  (∀ (b : Byte) (s : State), ∃ t, exec (.cmpa (.imm b)) s = .next t ∧
    ChkCond.LT.holds t = decide (s.a.toInt < b.toInt) ∧ ChkCond.LE.holds t = decide (s.a.toInt ≤ b.toInt) ∧
    ChkCond.LS.holds t = decide (s.a.toNat ≤ b.toNat) ∧ ChkCond.C.holds t = decide (s.a.toNat < b.toNat) ∧
    ChkCond.Z.holds t = decide (s.a = b)) ∧
  (∀ (b : Word) (s : State), ∃ t, exec (.cmpx (.imm b)) s = .next t ∧
    ChkCond.LT.holds t = decide (s.x.toInt < b.toInt) ∧ ChkCond.LE.holds t = decide (s.x.toInt ≤ b.toInt) ∧
    ChkCond.LS.holds t = decide (s.x.toNat ≤ b.toNat) ∧ ChkCond.C.holds t = decide (s.x.toNat < b.toNat) ∧
    ChkCond.Z.holds t = decide (s.x = b))

/-- NEG, INC, DEC, COM, LSR, ROR, ASR, LSL, ROL on A and on B. -/
def Obligations.UnaryOnAccumulator : Prop :=
  ∀ p ∈ [(Instr.nega, Reg.A, unaryNeg), (.negb, .B, unaryNeg), (.inca, .A, unaryInc), (.incb, .B, unaryInc),
      (.deca, .A, unaryDec), (.decb, .B, unaryDec), (.coma, .A, unaryCom), (.comb, .B, unaryCom), (.lsra, .A, unaryLsr),
      (.lsrb, .B, unaryLsr), (.rora, .A, unaryRor), (.rorb, .B, unaryRor), (.asra, .A, unaryAsr), (.asrb, .B, unaryAsr),
      (.lsla, .A, unaryLsl), (.lslb, .B, unaryLsl), (.rola, .A, unaryRol), (.rolb, .B, unaryRol)], ∀ s : State,
    ∃ t, exec p.1 s = .next t ∧
      t.reg p.2.1 = (p.2.2.result ((s.reg p.2.1).setWidth 8) (s.flag .C)).setWidth 16 ∧
      UnaryFlags p.2.2 ((s.reg p.2.1).setWidth 8) s t ∧ SameRegs [p.2.1] s t ∧ Quiet s t

/-- NEG, INC, DEC, COM, LSR, ROR, ASR, LSL, ROL on a memory byte: one read and one write of the same address. -/
def Obligations.UnaryOnMemory : Prop :=
  ∀ p ∈ [(Instr.neg, unaryNeg), (.inc, unaryInc), (.dec, unaryDec), (.com, unaryCom), (.lsr, unaryLsr), (.ror, unaryRor),
      (.asr, unaryAsr), (.lsl, unaryLsl), (.rol, unaryRol)], ∀ (m : MemOp) (s : State), m.wf = true → Memory.wf s.mem = true →
    ∃ u t, s.resolveEA m = some u ∧ exec (p.1 m) s = .next t ∧
      let r : Byte := p.2.result (s.peek u.ea) (s.flag .C)
      Stores [(u.ea, r)] [] [] s t ∧
      UnaryFlags p.2 (s.peek u.ea) s t ∧ SameRegs [] u t ∧ Straight s t

/-- TST and CLR on A, on B and on a memory byte. -/
def Obligations.TestAndClear : Prop :=
  (∀ p ∈ [(Instr.tsta, Reg.A), (.tstb, .B)], ∀ s : State, ∃ t, exec p.1 s = .next t ∧
    FlagsNZ (BitVec.setWidth 8 (s.reg p.2)) t ∧ t.flag .V = false ∧ SameFlags [.N, .Z, .V] s t ∧ SameRegs [] s t ∧ Quiet s t) ∧
  (∀ (m : MemOp) (s : State), m.wf = true → ∃ u t, s.resolveEA m = some u ∧ exec (.tst m) s = .next t ∧
    FlagsNZ (s.peek u.ea) t ∧ t.flag .V = false ∧ SameFlags [.N, .Z, .V] s t ∧ SameRegs [] u t ∧ Quiet s t) ∧
  (∀ p ∈ [(Instr.clra, Reg.A), (.clrb, .B)], ∀ s : State, ∃ t, exec p.1 s = .next t ∧ t.reg p.2 = 0 ∧
    t.flag .N = false ∧ t.flag .Z = true ∧ t.flag .V = false ∧ t.flag .C = false ∧ SameFlags [.N, .Z, .V, .C] s t ∧
    SameRegs [p.2] s t ∧ Quiet s t) ∧
  (∀ (m : MemOp) (s : State), m.wf = true → Memory.wf s.mem = true →
    ∃ u t, s.resolveEA m = some u ∧ exec (.clr m) s = .next t ∧
      Stores [(u.ea, 0)] [] [] s t ∧
      t.flag .N = false ∧ t.flag .Z = true ∧ t.flag .V = false ∧ t.flag .C = false ∧ SameFlags [.N, .Z, .V, .C] s t ∧
      SameRegs [] u t ∧ Straight s t)

/-- MUL, SEX, ABX. -/
def Obligations.MultiplyExtendAdd : Prop :=
  ∀ s : State,
    (∃ t, exec .mul s = .next t ∧ (t.reg .D).toNat = s.a.toNat * s.b.toNat ∧
      t.flag .Z = decide (s.a.toNat * s.b.toNat = 0) ∧ t.flag .C = t.b.getLsbD 7 ∧ SameFlags [.Z, .C] s t ∧
      SameRegs [.A, .B] s t ∧ Quiet s t) ∧
    (∃ t, exec .sex s = .next t ∧ (t.reg .D).toInt = s.b.toInt ∧ FlagsNZ s.b t ∧ SameFlags [.N, .Z] s t ∧
      SameRegs [.A] s t ∧ Quiet s t) ∧
    (∃ t, exec .abx s = .next t ∧ t.x = BitVec.ofNat 16 (s.x.toNat + s.b.toNat) ∧ t.cc = s.cc ∧
      SameRegs [.X] s t ∧ Quiet s t)

/-- DAA: the correction from H, C and the two nibbles; the carry is never cleared. What it is for: ADCA then DAA adds two
decimal numbers below 100 and the carry. -/
def Obligations.DecimalAdjust : Prop :=
  (∀ s : State, ∃ t, exec .daa s = .next t ∧
    let lo := s.a.toNat % 16
    let hi := s.a.toNat / 16
    let sum := s.a.toNat + (if s.flag .H = true ∨ 9 < lo then 0x06 else 0) +
      (if s.flag .C = true ∨ 9 < hi ∨ (8 < hi ∧ 9 < lo) then 0x60 else 0)
    t.a = BitVec.ofNat 8 sum ∧ t.flag .C = (s.flag .C || decide (255 < sum)) ∧ FlagsNZ t.a t ∧ OpenFlag .V s t ∧
    SameFlags [.N, .Z, .V, .C] s t ∧ SameRegs [.A] s t ∧ Quiet s t) ∧
  (∀ (s : State) (x y : Nat), x < 100 → y < 100 → s.a = bcd x →
    ∃ t u, exec (.adca (.imm (bcd y))) s = .next t ∧ exec .daa t = .next u ∧
      u.a = bcd ((x + y + (s.flag .C).toNat) % 100) ∧ u.flag .C = decide (100 ≤ x + y + (s.flag .C).toNat))

/-! ### Logic and CC -/

/-- AND, OR, EOR and BIT on A and on B; a bit test keeps the register. -/
def Obligations.LogicByte : Prop :=
  ∀ p ∈ [(Instr.anda, Reg.A, (· && ·), true), (.andb, .B, (· && ·), true), (.ora, .A, (· || ·), true),
      (.orb, .B, (· || ·), true), (.eora, .A, (· ^^ ·), true), (.eorb, .B, (· ^^ ·), true),
      (.bita, .A, (· && ·), false), (.bitb, .B, (· && ·), false)], ∀ (src : Src8) (s : State),
    src.wf = true → ∃ b u t, ∃ r : Byte, operand8 s src = some (b, u) ∧ exec (p.1 src) s = .next t ∧
      (∀ k < 8, r.getLsbD k = p.2.2.1 ((s.reg p.2.1).getLsbD k) (b.getLsbD k)) ∧
      t.reg p.2.1 = (if p.2.2.2 then r.setWidth 16 else s.reg p.2.1) ∧ FlagsNZ r t ∧ t.flag .V = false ∧
      SameFlags [.N, .Z, .V] s t ∧ SameRegs [p.2.1] u t ∧ Quiet s t

/-- ANDCC clears exactly the bits whose immediate bit is 0; ORCC sets exactly those whose immediate bit is 1. -/
def Obligations.ConditionCodeMasks : Prop :=
  ∀ (m : Byte) (s : State),
    (∃ t, exec (.andcc m) s = .next t ∧ (∀ f : Flag, t.flag f = (s.flag f && m.getLsbD f.bit)) ∧
      SameRegs [] s t ∧ Quiet s t) ∧
    (∃ t, exec (.orcc m) s = .next t ∧ (∀ f : Flag, t.flag f = (s.flag f || m.getLsbD f.bit)) ∧
      SameRegs [] s t ∧ Quiet s t)

/-! ### Branches, calls, jumps -/

/-- The sixteen short and the sixteen long branches: each taken exactly on its condition, and nothing but PC changed. -/
def Obligations.ConditionalBranches : Prop :=
  (∀ p ∈ shortBranches, ∀ (d : Byte) (s : State), ∃ t, exec (p.1 d) s = .next t ∧
    Branches (p.2 (s.flag .C) (s.flag .Z) (s.flag .V) (s.flag .N)) (s.pc + signed8 d) s t) ∧
  (∀ p ∈ longBranches, ∀ (d : Word) (s : State), ∃ t, exec (p.1 d) s = .next t ∧
    Branches (p.2 (s.flag .C) (s.flag .Z) (s.flag .V) (s.flag .N)) (s.pc + d) s t)

/-- BSR, LBSR, JSR: the return address on S, big-endian, and PC at the target formed before the push. -/
def Obligations.CallsPushReturnAddress : Prop :=
  ∀ s : State, Memory.wf s.mem = true →
    (∀ d : Byte, ∃ t, exec (.bsr d) s = .next t ∧ Jumped (s.pc + signed8 d) s t ∧ t.s = s.s - 2 ∧
      Stores (pushes (s.s - 2) (wordBytes s.pc)) [.pcNotify t.pc] [] s t ∧ t.cc = s.cc ∧ SameRegs [.S] s t) ∧
    (∀ d : Word, ∃ t, exec (.lbsr d) s = .next t ∧ Jumped (s.pc + d) s t ∧ t.s = s.s - 2 ∧
      Stores (pushes (s.s - 2) (wordBytes s.pc)) [.pcNotify t.pc] [] s t ∧ t.cc = s.cc ∧ SameRegs [.S] s t) ∧
    (∀ m : MemOp, m.wf = true → ∃ u t, s.resolveEA m = some u ∧ exec (.jsr m) s = .next t ∧ Jumped u.ea s t ∧
      t.s = u.s - 2 ∧ Stores (pushes (u.s - 2) (wordBytes s.pc)) [.pcNotify t.pc] [] s t ∧ t.cc = s.cc ∧
      SameRegs [.S] u t)

/-- JMP goes to its effective address; RTS pulls PC from S. -/
def Obligations.JumpAndReturn : Prop :=
  ∀ s : State,
    (∀ m : MemOp, m.wf = true → ∃ u t, s.resolveEA m = some u ∧ exec (.jmp m) s = .next t ∧ Jumped u.ea s t ∧
      t.cc = s.cc ∧ SameRegs [] u t ∧ SameMemory s t) ∧
    (∃ t, exec .rts s = .next t ∧ Jumped (wordAt s s.s) s t ∧ t.s = s.s + 2 ∧ t.cc = s.cc ∧ SameRegs [.S] s t ∧
      SameMemory s t)

/-! ### Stack and system -/

/-- PSHS, PSHU: the listed registers below the stack pointer, bit 0 lowest, words big-endian. -/
def Obligations.PushRegisterList : Prop :=
  ∀ p ∈ [(Instr.pshs, Stack.S), (.pshu, .U)], ∀ (pb : Byte) (s : State), Memory.wf s.mem = true →
    ∃ t, exec (p.1 pb) s = .next t ∧
      t.reg p.2.reg = s.reg p.2.reg - BitVec.ofNat 16 (listBytes p.2 pb s).length ∧
      Stores (pushes (t.reg p.2.reg) (listBytes p.2 pb s)) [] [] s t ∧ t.cc = s.cc ∧
      SameRegs [p.2.reg] s t ∧ Straight s t

/-- PULS, PULU: the listed registers from the stack pointer upward, bit 0 first; the rest as before. -/
def Obligations.PullRegisterList : Prop :=
  ∀ p ∈ [(Instr.puls, Stack.S), (.pulu, .U)], ∀ (pb : Byte) (s : State),
    ∃ t, exec (p.1 pb) s = .next t ∧
      let at8 : Nat → Byte := fun k => s.peek (s.reg p.2.reg + BitVec.ofNat 16 (listOffset pb k))
      let at16 : Nat → Word := fun k => wordAt s (s.reg p.2.reg + BitVec.ofNat 16 (listOffset pb k))
      t.cc = (if pb.getLsbD 0 then at8 0 else s.cc) ∧ t.a = (if pb.getLsbD 1 then at8 1 else s.a) ∧
      t.b = (if pb.getLsbD 2 then at8 2 else s.b) ∧ t.dp = (if pb.getLsbD 3 then at8 3 else s.dp) ∧
      t.x = (if pb.getLsbD 4 then at16 4 else s.x) ∧ t.y = (if pb.getLsbD 5 then at16 5 else s.y) ∧
      t.reg p.2.other.reg = (if pb.getLsbD 6 then at16 6 else s.reg p.2.other.reg) ∧
      t.pc = (if pb.getLsbD 7 then at16 7 else s.pc) ∧ t.ntck = (if pb.getLsbD 7 then true else s.ntck) ∧
      t.reg p.2.reg = s.reg p.2.reg + BitVec.ofNat 16 (listOffset pb 8) ∧ SameMemory s t ∧ SameRest s t

/-- SWI, SWI2, SWI3: the entire frame with E set, the masks after the push for SWI alone, PC from the vector. The layout of the
frame is the spec's decision D11 (R610), the masks D10, the vector addresses D9 (R611). -/
def Obligations.SoftwareInterrupts : Prop :=
  ∀ p ∈ [(Instr.swi, (0x50 : Byte), Vectors.swi), (.swi2, 0, Vectors.swi2), (.swi3, 0, Vectors.swi3)], ∀ s : State,
    Memory.wf s.mem = true →
    ∃ t, exec p.1 s = .next t ∧ EntryTo .entire p.2.1 (p.2.2 s.cfg.vectors) [] s t ∧ t.dp = s.dp ∧ t.ntck = true ∧
      SameRest s t

/-- RTI: CC first, then by the E bit just pulled twelve bytes in all or three. -/
def Obligations.ReturnFromInterrupt : Prop :=
  ∀ s : State, ∃ t, exec .rti s = .next t ∧ t.cc = s.peek s.s ∧
    (if (s.peek s.s).getLsbD 7 then
      t.a = s.peek (s.s + 1) ∧ t.b = s.peek (s.s + 2) ∧ t.dp = s.peek (s.s + 3) ∧ t.x = wordAt s (s.s + 4) ∧
        t.y = wordAt s (s.s + 6) ∧ t.u = wordAt s (s.s + 8) ∧ Jumped (wordAt s (s.s + 10)) s t ∧ t.s = s.s + 12
    else SameRegs [.S] s t ∧ Jumped (wordAt s (s.s + 1)) s t ∧ t.s = s.s + 3) ∧
    SameMemory s t

/-- CWAI: CC and-ed with the mask, the entire state pushed first when CWAI_PRESTACK, then Waiting. -/
def Obligations.ClearAndWait : Prop :=
  ∀ (m : Byte) (s : State), Memory.wf s.mem = true → ∃ t, exec (.cwai m) s = .next t ∧
    let masked : State := { s with cc := s.cc &&& m }
    let bs : List Byte := if s.cfg.cwaiPrestack then frameBytes .entire masked else []
    t.cc = (if s.cfg.cwaiPrestack then (s.cc &&& m) ||| 0x80 else s.cc &&& m) ∧
    t.s = s.s - BitVec.ofNat 16 bs.length ∧ Stores (pushes t.s bs) [] [] s t ∧ SameRegs [.S] s t ∧
    t.run = .waiting ∧ t.pc = s.pc ∧ t.ntck = s.ntck ∧ SameRest { s with run := .waiting } t

/-- SYNC changes the run state alone (R170); NOP changes nothing (R174, R487); a page prefix records its page alone (R168, R490,
R491). -/
def Obligations.SyncNopPrefix : Prop :=
  ∀ s : State, exec .sync s = .next { s with run := .syncing } ∧ exec .nop s = .next s ∧
    exec .prefix10 s = .next { s with page := .p10 } ∧ exec .prefix11 s = .next { s with page := .p11 }

/-- The primitives spell the instructions: a program of tokens, in the shape the instruction rules give, has exactly the effect
of the mnemonic in every state, undefined postbytes included. CMPX with an auto-increment loads its register before the operand (R323;
log 10). (CC masks, SEX, the Z of LEAX and LEAY, register lists and the
pushes of calls have no token in the list of R143; the default table's programs are the model's, log 32.) -/
def Obligations.MicrocodeSpellsInstructions : Prop :=
  (∀ f ∈ [Format.imm8, .dir, .ext, .idx],
    SameProgram .lda f (tokens8 .r1 [.st1 .A, .alu .tst8] f) ∧ SameProgram .ldb f (tokens8 .r1 [.st1 .B, .alu .tst8] f) ∧
    (∀ p ∈ binaryPrograms, SameProgram p.1 f (tokens8 .r2 [.ld1 p.2.1, .alu p.2.2, .st1 p.2.1] f)) ∧
    (∀ p ∈ testPrograms, SameProgram p.1 f (tokens8 .r2 [.ld1 p.2.1, .alu p.2.2] f))) ∧
  (∀ f ∈ [Format.imm16, .dir, .ext, .idx],
    (∀ p ∈ wordPrograms, SameProgram p.1 f (tokens16 .r1 [.st1 p.2.2, .alu .tst16] f)) ∧
    (∀ p ∈ wordCompares, SameProgram p.1 f (tokens16 .r2 [.ld1 p.2, .alu .sub16] f)) ∧
    (∀ s : State, s.runMicrocode f (cmpxTokens f (s.peek s.pc)) = s.runMeaning f .cmpx) ∧
    SameProgram .addd f (tokens16 .r2 [.ld1 .D, .alu .add16, .st1 .D] f) ∧
    SameProgram .subd f (tokens16 .r2 [.ld1 .D, .alu .sub16, .st1 .D] f)) ∧
  (∀ f ∈ [Format.dir, .ext, .idx],
    SameProgram .sta f (addressTokens [.ld1 .A, .alu .tst8, .stor8] f) ∧
    SameProgram .stb f (addressTokens [.ld1 .B, .alu .tst8, .stor8] f) ∧
    (∀ p ∈ wordPrograms, SameProgram p.2.1 f (addressTokens [.ld1 p.2.2, .alu .tst16, .stor16] f)) ∧
    (∀ p ∈ memoryPrograms, SameProgram p.1 f (tokens8 .r1 [.alu p.2, .stor8] f)) ∧
    SameProgram .tst f (tokens8 .r1 [.alu .tst8] f) ∧ SameProgram .clr f (addressTokens [.alu .clr8, .stor8] f) ∧
    SameProgram .jmp f (addressTokens [.stEa .PC, .ntck] f)) ∧
  (∀ p ∈ unaryPrograms, SameProgram p.1 .inh [.ld1 p.2.1, .alu p.2.2, .st1 p.2.1]) ∧
  (∀ p ∈ branchPrograms,
    SameProgram p.1 .rel8 [.rel8, .chk p.2.2.1, p.2.2.2, .stEa .PC, .ntck] ∧
    SameProgram p.2.1 .rel16 [.rel16, .chk p.2.2.1, p.2.2.2, .stEa .PC, .ntck]) ∧
  (∀ p ∈ plainPrograms, SameProgram p.1 p.2.1 p.2.2)

/-! ### The encoder -/

/-- A short branch assembles to its opcode and the displacement from the address after it when that is in -128..127 or the
pass is the first, and is the error "branch out of range" otherwise; a long branch reaches every target; a target with no value
yet gives a zero displacement. So over every table, for a name with a branch record and no INH, RPAIR or RLIST record; the names
of the default table's branches are such. That a custom name with other records besides (REL16 beside REL8, an immediate or a
memory form) is encoded as this branch is the model's choice (log 34), for R503 gives no order. The short range is the spec's
decision D30 (R513, C6). -/
def Obligations.BranchEncoding : Prop :=
  let branchOnly (table : OpcodeTable) (m : OpName) : Prop :=
    table.form m .inh = none ∧ table.form m .rpair = none ∧ table.form m .rlist = none
  (∀ (env : AsmEnv) (m : OpName) (bs : List Byte) (text : Text), branchOnly env.table m →
    (env.table.form m .rel8 = some bs →
      (∀ v, evalExpr env false text = .ok (some v) →
        let disp := Machine.sdiff v (env.programCounter.toNat + bs.length + 1)
        encodeInstr env m text =
          if -128 ≤ disp ∧ disp ≤ 127 ∨ env.passNo < 2 then .ok (bs ++ [BitVec.ofInt 8 disp]) else .error .branchOutOfRange) ∧
      (evalExpr env false text = .ok none → encodeInstr env m text = .ok (bs ++ [0]))) ∧
    (env.table.form m .rel8 = none → env.table.form m .rel16 = some bs →
      (∀ v, evalExpr env false text = .ok (some v) →
        encodeInstr env m text = .ok (bs ++
          wordBytes (BitVec.ofInt 16 (v - (env.programCounter.toNat + bs.length + 2))))) ∧
      (evalExpr env false text = .ok none → encodeInstr env m text = .ok (bs ++ [0, 0])))) ∧
  (∀ (m : Mnemonic) (r : Row), rowOf m .rel8 = some r →
    branchOnly .standard (.core m) ∧ OpcodeTable.form .standard (.core m) .rel8 = some [r.opcode]) ∧
  (∀ (m : Mnemonic) (r : Row), rowOf m .rel16 = some r →
    branchOnly .standard (.core m) ∧ OpcodeTable.form .standard (.core m) .rel8 = none ∧
      OpcodeTable.form .standard (.core m) .rel16 = some (r.page.bytes ++ [r.opcode]))

/-- A short branch or BSR the encoder accepts from pass 2 on, executed where it was assembled, goes to the target it was written
with: its two bytes decode to the instruction of its mnemonic, and that instruction, taken, leaves PC at the target. The range
the encoder enforces is the spec's decision D30 (R513). -/
def Obligations.AssembledBranchReachesTarget : Prop :=
  ∀ (env : AsmEnv) (m : Mnemonic) (text : Text) (v : Int) (bs : List Byte), env.table = .standard → 2 ≤ env.passNo →
    hasFormat env (.core m) .rel8 = true → evalExpr env false text = .ok (some v) →
    encodeInstr env (.core m) text = .ok bs →
    ∃ r d i, rowOf m .rel8 = some r ∧ bs = [r.opcode, d] ∧ decode bs = .instr i 2 ∧ i.mnemonic = m ∧
      ((i = .bsr d ∧ ∀ s : State, s.pc = env.programCounter + 2 →
          ∃ t, exec i s = .next t ∧ t.pc = BitVec.ofInt 16 v) ∨
        ∃ p ∈ shortBranches, i = p.1 d ∧ ∀ s : State, s.pc = env.programCounter + 2 →
          p.2 (s.flag .C) (s.flag .Z) (s.flag .V) (s.flag .N) = true →
          ∃ t, exec i s = .next t ∧ t.pc = BitVec.ofInt 16 v)

/-- The choice between direct and extended for an unforced address, over every table: two bytes after the prefix exactly when a
SETDP is in use and names the address's page. -/
def Obligations.DirectPageChoice : Prop :=
  ∀ (env : AsmEnv) (m : OpName) (d e : List Byte) (text : Text) (v : Int), env.table.form m .dir = some d →
    env.table.form m .ext = some e → text.head? ≠ some '<' → text.head? ≠ some '>' →
    evalExpr env false text = .ok (some v) →
    encodeAddress env m text = .ok (
      if env.directPage.inUse = true ∧ hiByte (BitVec.ofInt 16 v) = env.directPage.value then d ++ [loByte (BitVec.ofInt 16 v)]
      else e ++ wordBytes (BitVec.ofInt 16 v))

/-- The size of an unforced constant offset: 5 bits exactly for -16..15 outside brackets, else 8 bits for -128..127, else 16;
and the engine forms base plus that offset from the bytes. -/
def Obligations.OffsetSizeAndMeaning : Prop :=
  ∀ (r : IdxReg) (ind : Bool) (n : Int),
    (chooseOffset r ind false false (some n)).bytes.length =
      (if ind = false ∧ -16 ≤ n ∧ n ≤ 15 then 1 else if -128 ≤ n ∧ n ≤ 127 then 2 else 3) ∧
    ∀ s : State, s.indx (chooseOffset r false false false (some n)) =
      some { s with ea := s.reg (baseReg r) + BitVec.ofInt 16 n }

/-- An error ends the assembly run: the line deposits nothing, labels and memory stay, and later calls do nothing. That the
labels are as before, the line's own label included, and the name of the message are the model's choice (log 22); that the line
number is the cursor plus one and that a call in phase error changes nothing are the model's choice (log 20). -/
def Obligations.AssemblyErrorStops : Prop :=
  ∀ (s : State) (line : Text) (e : AsmError), s.asm.phase = .running → s.asm.source[s.asm.cursor]? = some line →
    s.asmLine line = .error e →
    let t := s.asmAdvanceOneLine
    t = { s with asm := t.asm } ∧ t.asm.errorFlag = true ∧ t.asm.labels = s.asm.labels ∧ t.asm.blocks = s.asm.blocks ∧
      t.asm.openBlock = s.asm.openBlock ∧ t.asm.programCounter = s.asm.programCounter ∧
      t.asm.status = some ⟨.error, s.asm.passNo, s.asm.cursor + 1, some e, line⟩ ∧ ∀ n, t.asmAdvance n = t

/-- The encoder changes its own state, memory and the events at most, and through its stores the devices and what they latch:
no register, flag or run state of the engine, and no latch where no window belongs to a device. -/
def Obligations.EncoderLeavesEngine : Prop :=
  ∀ s : State,
    let t := s.asmAdvanceOneLine
    t = { s with
      mem := t.mem, events := t.events, latches := t.latches, deviceState := t.deviceState, asm := t.asm } ∧
    (s.deviceFree = true → t.latches = s.latches ∧ t.deviceState = s.deviceState)
end

