-- ==== Sys2Proof/Laws/Flags.lean ====
section
/-! SUPPORT. The laws of byte order, of the flag-update descriptor, and of the ALU primitives. -/

namespace Sys2Proof.Machine

/-! ### Byte order (R6, R65) -/

@[simp] theorem hiByte_wordOf (hi lo : Byte) : hiByte (wordOf hi lo) = hi := by
  apply BitVec.eq_of_getLsbD_eq
  intro i h
  simp only [hiByte, wordOf, BitVec.getLsbD_extractLsb', BitVec.getLsbD_append, h, decide_true, Bool.true_and]
  rw [if_neg (by omega)]
  congr 1
  omega

@[simp] theorem loByte_wordOf (hi lo : Byte) : loByte (wordOf hi lo) = lo := by
  apply BitVec.eq_of_getLsbD_eq
  intro i h
  simp only [loByte, wordOf, BitVec.getLsbD_extractLsb', BitVec.getLsbD_append, h, decide_true, Bool.true_and]
  rw [if_pos (by omega)]
  congr 1
  omega

@[simp] theorem wordOf_hiByte_loByte (w : Word) : wordOf (hiByte w) (loByte w) = w := by
  apply BitVec.eq_of_getLsbD_eq
  intro i hi
  simp only [wordOf, hiByte, loByte, BitVec.getLsbD_append, BitVec.getLsbD_extractLsb']
  by_cases h : i < 8
  · simp [h]
  · have h' : i - 8 < 8 := by omega
    rw [if_neg h]
    simp only [h', decide_true, Bool.true_and]
    congr 1
    omega

@[simp] theorem loByte_zext16 (v : Byte) : loByte (zext16 v) = v := by
  apply BitVec.eq_of_getLsbD_eq
  intro i hi
  simp [loByte, zext16, hi]; omega

@[simp] theorem hiByte_zext16 (v : Byte) : hiByte (zext16 v) = 0 := by
  apply BitVec.eq_of_getLsbD_eq
  intro i hi
  simp [hiByte, zext16]

/-! ### The descriptor (R27) -/

/-- A descriptor sets each flag to the value it gives, or leaves it. -/
@[simp] theorem FlagUpdate.flagOf_apply (d : FlagUpdate) (cc : Byte) (f : Flag) :
    flagOf (d.apply cc) f = d.value cc f := by
  have key : ∀ e f h i n z v c : Bool, ∀ k : Flag,
      flagOf (BitVec.ofBool e ++ BitVec.ofBool f ++ BitVec.ofBool h ++ BitVec.ofBool i ++ BitVec.ofBool n ++
        BitVec.ofBool z ++ BitVec.ofBool v ++ BitVec.ofBool c) k =
      match k with
      | .E => e | .F => f | .H => h | .I => i | .N => n | .Z => z | .V => v | .C => c := by
    intro e f h i n z v c k
    cases k <;> revert e f h i n z v c <;> decide
  rw [FlagUpdate.apply, key]
  cases f <;> rfl

/-- A CC is its eight flags. -/
theorem cc_ext {p q : Byte} (h : ∀ f, flagOf p f = flagOf q f) : p = q := by
  apply BitVec.eq_of_getLsbD_eq
  intro i hi
  have : i = 0 ∨ i = 1 ∨ i = 2 ∨ i = 3 ∨ i = 4 ∨ i = 5 ∨ i = 6 ∨ i = 7 := by omega
  rcases this with rfl | rfl | rfl | rfl | rfl | rfl | rfl | rfl
  · exact h .C
  · exact h .V
  · exact h .Z
  · exact h .N
  · exact h .I
  · exact h .H
  · exact h .F
  · exact h .E

@[simp] theorem State.flag_flags (s : State) (d : FlagUpdate) (f : Flag) : (s.flags d).flag f = d.value s.cc f := by
  simp [State.flag, State.flags]

/-! ### What the drawn free value touches (log 7) -/

/-- `drawn` changes the draw counter at most. -/
theorem State.drawn_eq (s : State) : s.drawn = { s with draws := s.drawn.draws } := by
  unfold State.drawn; split <;> rfl

end Sys2Proof.Machine
end

