-- ==== Sys2Proof/Laws/Decode.lean ====
section
/-! SUPPORT. The table's keys, and the round trip of each piece of an encoding (R97 to R105, R142). -/

namespace Sys2Proof

/-- Each (opcode, page) key has one row, the one `OpFind` answers (R105, R142). -/
theorem opFind_row : ∀ r ∈ opcodeTable, opFind r.opcode r.page = some r := by
  decide +kernel

/-- Each (mnemonic, format) key has one row (R105). -/
theorem rowOf_row : ∀ r ∈ opcodeTable, rowOf r.mnemonic r.format = some r := by
  decide +kernel

theorem rowOf_mem {m : Mnemonic} {f : Format} {r : Row} (h : rowOf m f = some r) : r ∈ opcodeTable :=
  List.mem_of_find?_eq_some h

theorem rowOf_key {m : Mnemonic} {f : Format} {r : Row} (h : rowOf m f = some r) : r.mnemonic = m ∧ r.format = f := by
  have := List.find?_some h
  simpa [Bool.and_eq_true, beq_iff_eq] using this

theorem opFind_mem {o : Byte} {p : Page} {r : Row} (h : opFind o p = some r) : r ∈ opcodeTable :=
  List.mem_of_find?_eq_some h

theorem opFind_key {o : Byte} {p : Page} {r : Row} (h : opFind o p = some r) : r.opcode = o ∧ r.page = p := by
  have := List.find?_some h
  simpa [Bool.and_eq_true, beq_iff_eq] using this

/-- Only the two prefix entries have the format PREFIX, and they are the mnemonics the decoder follows (R103). -/
theorem pager_rows : ∀ r ∈ opcodeTable, r.format = .pager →
    (r = ⟨.prefix10, .pager, .p0, 0x10⟩ ∨ r = ⟨.prefix11, .pager, .p0, 0x11⟩) := by
  decide +kernel

@[simp] theorem Page.bytes_p0 : Page.p0.bytes = [] := rfl

@[simp] theorem takeWord_wordBytes {α : Type} (k : Word → α) (w : Word) (rest : List Byte) :
    takeWord k (wordBytes w ++ rest) = some (k w, 2) := by
  simp only [wordBytes, List.cons_append, takeWord, Machine.wordOf_hiByte_loByte]

@[simp] theorem takeByte_cons {α : Type} (k : Byte → α) (v : Byte) (rest : List Byte) :
    takeByte k (v :: rest) = some (k v, 1) := rfl

/-- The register field of a 5-bit form (R97). -/
theorem off5_fields : ∀ (r : IdxReg) (n : BitVec 5),
    let pb : Byte := 0#1 ++ r.code ++ n
    pb.getLsbD 7 = false ∧ IdxReg.ofCode (pb.extractLsb' 5 2) = r ∧ pb.extractLsb' 0 5 = n := by
  intro r n
  cases r <;> revert n <;> decide

/-- The fields of a sub-mode postbyte (R97). -/
theorem mode_fields : ∀ (r : IdxReg) (i : Bool) (c : BitVec 4),
    let pb : Byte := 1#1 ++ r.code ++ BitVec.ofBool i ++ c
    pb.getLsbD 7 = true ∧ IdxReg.ofCode (pb.extractLsb' 5 2) = r ∧ pb.getLsbD 4 = i ∧ pb.extractLsb' 0 4 = c := by
  intro r i c
  cases r <;> cases i <;> revert c <;> decide

/-- The fields of a register-pair postbyte (R101). -/
theorem pair_fields : ∀ c d : BitVec 4,
    let pb : Byte := c ++ d
    pb.extractLsb' 4 4 = c ∧ pb.extractLsb' 0 4 = d := by
  decide

theorem PairReg.ofCode_code (r : Reg) : PairReg.ofCode r.pairCode = .reg r := by
  cases r <;> rfl

/-- Every indexed postbyte splits into the fields it is built from (R97). -/
theorem postbyte_fields : ∀ pb : Byte,
    (pb.getLsbD 7 = false → pb = 0#1 ++ (IdxReg.ofCode (pb.extractLsb' 5 2)).code ++ pb.extractLsb' 0 5) ∧
    (pb.getLsbD 7 = true →
      pb = 1#1 ++ (IdxReg.ofCode (pb.extractLsb' 5 2)).code ++ BitVec.ofBool (pb.getLsbD 4) ++ pb.extractLsb' 0 4) := by
  decide +kernel

/-- The extra bytes of a defined sub-mode (R98). -/
theorem decodeMode_extra (m : IdxMode) (h : m.wf = true) (rest : List Byte) :
    decodeMode m.code (m.extra ++ rest) = some (m, m.extra.length) := by
  cases m with
  | off16 n => exact takeWord_wordBytes IdxMode.off16 n rest
  | pcr16 n => exact takeWord_wordBytes IdxMode.pcr16 n rest
  | abs n => exact takeWord_wordBytes IdxMode.abs n rest
  | undefined c => exact absurd h Bool.false_ne_true
  | _ => rfl

/-- An indexed operand decodes from its bytes (R97, R98). -/
theorem decodeIndex_bytes (ix : Index) (h : ix.wf = true) (rest : List Byte) :
    decodeIndex (ix.bytes ++ rest) = some (ix, ix.bytes.length) := by
  cases ix with
  | off5 r n =>
    have hf := off5_fields r n
    simp only at hf
    simp only [Index.bytes, List.cons_append, List.nil_append, decodeIndex, hf.1, hf.2.1, hf.2.2]
    rfl
  | mode r i m =>
    have hf := mode_fields r i m.code
    simp only at hf
    simp only [Index.bytes, List.cons_append, decodeIndex, hf.1, hf.2.1, hf.2.2.1, hf.2.2.2, if_true,
      decodeMode_extra m h, Option.map_some, List.length_cons]

/-- An operand with no undefined code (R119). -/
def Operand.wf : Operand → Bool
  | .idx ix => ix.wf
  | .rpair s d => s.wf && d.wf
  | _ => true

theorem PairReg.ofCode_of_wf {p : PairReg} (h : p.wf = true) : PairReg.ofCode p.code = p := by
  cases p with
  | reg r => exact PairReg.ofCode_code r
  | undefined c => cases h

/-- An operand decodes from its bytes, whatever follows (R91). -/
theorem decodeOperand_bytes (o : Operand) (h : o.wf = true) (rest : List Byte) :
    decodeOperand o.format (o.bytes ++ rest) = some (o, o.bytes.length) := by
  cases o with
  | idx ix =>
    simp only [Operand.format, decodeOperand, Operand.bytes, decodeIndex_bytes ix h, Option.map_some]
  | rpair s d =>
    simp only [Operand.wf, Bool.and_eq_true] at h
    have hf := pair_fields s.code d.code
    simp only at hf
    simp only [Operand.format, decodeOperand, Operand.bytes, List.cons_append, List.nil_append, takeByte_cons, hf.1, hf.2,
      PairReg.ofCode_of_wf h.1, PairReg.ofCode_of_wf h.2]
    rfl
  | imm16 w => exact takeWord_wordBytes Operand.imm16 w rest
  | ext w => exact takeWord_wordBytes Operand.ext w rest
  | rel16 w => exact takeWord_wordBytes Operand.rel16 w rest
  | _ => rfl

theorem Src8.wf_operand (x : Src8) : x.operand.wf = x.wf := by rcases x with v | ⟨lo | a | ix⟩ <;> rfl

theorem Src16.wf_operand (x : Src16) : x.operand.wf = x.wf := by rcases x with v | ⟨lo | a | ix⟩ <;> rfl

theorem MemOp.wf_operand (x : MemOp) : x.operand.wf = x.wf := by rcases x with lo | a | ix <;> rfl

/-- A well-formed instruction has a well-formed operand. -/
theorem Instr.wf_operand (i : Instr) (h : i.wf = true) : i.operand.wf = true := by
  cases i <;> first
    | rfl
    | exact (Src8.wf_operand _).trans h
    | exact (Src16.wf_operand _).trans h
    | exact (MemOp.wf_operand _).trans h
    | exact h

end Sys2Proof
end

