-- ==== Sys2Proof/Laws/Memory.lean ====
section
/-! SUPPORT. The laws of the memory list: a read after a write, every other place, the canonical form, the bound. -/

namespace Sys2Proof.Machine

/-- Every entry of a canonical list from a bound on is at or past the bound, so a read below it is unlisted. -/
theorem Memory.read_of_lt {m : Memory} {lo a : Nat} (h : Memory.wfFrom lo m = true) (ha : a < lo) :
    Memory.read m a = Memory.unlisted := by
  induction m generalizing lo with
  | nil => rfl
  | cons c m ih =>
    obtain ⟨b, w⟩ := c
    simp only [Memory.wfFrom, Bool.and_eq_true, decide_eq_true_eq] at h
    have hne : a ≠ b := by omega
    simp only [Memory.read, hne, if_false]
    exact ih h.2 (by omega)

/-- A canonical list from a bound is canonical from every lower bound. -/
theorem Memory.wfFrom_mono {m : Memory} {lo lo' : Nat} (h : Memory.wfFrom lo m = true) (hl : lo' ≤ lo) :
    Memory.wfFrom lo' m = true := by
  cases m with
  | nil => rfl
  | cons c m =>
    obtain ⟨b, w⟩ := c
    simp only [Memory.wfFrom, Bool.and_eq_true, decide_eq_true_eq] at h ⊢
    exact ⟨⟨by omega, h.1.2⟩, h.2⟩

/-- A write keeps the canonical form from a bound at or below the address. -/
theorem Memory.wfFrom_write {m : Memory} {lo a : Nat} {v : Byte} (h : Memory.wfFrom lo m = true) (ha : lo ≤ a) :
    Memory.wfFrom lo (Memory.write a v m) = true := by
  induction m generalizing lo with
  | nil =>
    by_cases hv : v = Memory.unlisted <;> simp [Memory.write, Memory.wfFrom, hv, ha]
  | cons c m ih =>
    obtain ⟨b, w⟩ := c
    have hb := h
    simp only [Memory.wfFrom, Bool.and_eq_true, decide_eq_true_eq] at h
    obtain ⟨⟨hlo, hw⟩, hm⟩ := h
    simp only [Memory.write]
    split
    · split
      · exact hb
      · simp only [Memory.wfFrom, Bool.and_eq_true, decide_eq_true_eq]
        exact ⟨⟨ha, by assumption⟩, ⟨by omega, hw⟩, hm⟩
    · split
      · split
        · exact Memory.wfFrom_mono hm (by omega)
        · simp only [Memory.wfFrom, Bool.and_eq_true, decide_eq_true_eq]
          refine ⟨⟨ha, by assumption⟩, ?_⟩
          subst_vars
          exact hm
      · simp only [Memory.wfFrom, Bool.and_eq_true, decide_eq_true_eq]
        exact ⟨⟨hlo, hw⟩, ih hm (by omega)⟩

/-- Every write keeps the canonical form. -/
theorem Memory.wf_write {m : Memory} (a : Nat) (v : Byte) (h : Memory.wf m = true) :
    Memory.wf (Memory.write a v m) = true := Memory.wfFrom_write h (Nat.zero_le a)

/-- A read after a write to the same address, in a list canonical from a bound. -/
theorem Memory.read_write_same_from {m : Memory} {lo : Nat} (a : Nat) (v : Byte) (h : Memory.wfFrom lo m = true) :
    Memory.read (Memory.write a v m) a = v := by
  induction m generalizing lo with
  | nil => by_cases hv : v = Memory.unlisted <;> simp [Memory.write, Memory.read, hv]
  | cons c m ih =>
    obtain ⟨b, w⟩ := c
    simp only [Memory.wfFrom, Bool.and_eq_true, decide_eq_true_eq] at h
    obtain ⟨⟨hlo, hw⟩, hm⟩ := h
    simp only [Memory.write]
    split
    · split
      · have hne : a ≠ b := by omega
        simp only [Memory.read, hne, if_false]
        subst_vars
        exact Memory.read_of_lt hm (by omega)
      · simp [Memory.read]
    · split
      · split
        · subst_vars
          exact Memory.read_of_lt hm (by omega)
        · simp [Memory.read]
      · rename_i hne
        simp only [Memory.read, hne, if_false]
        exact ih hm

/-- A read after a write to the same address gives the value written. -/
theorem Memory.read_write_same {m : Memory} (a : Nat) (v : Byte) (h : Memory.wf m = true) :
    Memory.read (Memory.write a v m) a = v := Memory.read_write_same_from a v h

/-- A write leaves every other address alone, whatever the list. -/
theorem Memory.read_write_other {m : Memory} {a b : Nat} (v : Byte) (hne : b ≠ a) :
    Memory.read (Memory.write a v m) b = Memory.read m b := by
  induction m with
  | nil => by_cases hv : v = Memory.unlisted <;> simp [Memory.write, Memory.read, hv, hne]
  | cons c m ih =>
    obtain ⟨k, w⟩ := c
    simp only [Memory.write]
    split
    · split <;> simp [Memory.read, hne]
    · split
      · split <;> (subst_vars; simp [Memory.read, hne])
      · simp only [Memory.read, ih]

/-- A write below a bound keeps every listed address below it. -/
theorem Memory.below_write {m : Memory} {n a : Nat} (v : Byte) (h : Memory.below n m = true) (ha : a < n) :
    Memory.below n (Memory.write a v m) = true := by
  induction m with
  | nil => by_cases hv : v = Memory.unlisted <;> simp [Memory.write, Memory.below, hv, ha]
  | cons c m ih =>
    obtain ⟨k, w⟩ := c
    have hc := h
    simp only [Memory.below, List.all_cons, Bool.and_eq_true, decide_eq_true_eq] at h ih
    simp only [Memory.write]
    split
    · split
      · exact hc
      · simp only [Memory.below, List.all_cons, Bool.and_eq_true, decide_eq_true_eq]
        exact ⟨ha, h⟩
    · split
      · split
        · exact h.2
        · simp only [Memory.below, List.all_cons, Bool.and_eq_true, decide_eq_true_eq]
          exact ⟨ha, h.2⟩
      · simp only [Memory.below, List.all_cons, Bool.and_eq_true, decide_eq_true_eq]
        exact ⟨h.1, ih h.2⟩

/-- Two canonical lists that read the same at every address are the same list: equal memories are equal data. -/
theorem Memory.ext_from {m n : Memory} {lo : Nat} (hm : Memory.wfFrom lo m = true) (hn : Memory.wfFrom lo n = true)
    (h : ∀ a, Memory.read m a = Memory.read n a) : m = n := by
  induction m generalizing n lo with
  | nil =>
    cases n with
    | nil => rfl
    | cons c n =>
      obtain ⟨b, w⟩ := c
      simp only [Memory.wfFrom, Bool.and_eq_true, decide_eq_true_eq] at hn
      exact absurd (by simpa [Memory.read] using (h b).symm) hn.1.2
  | cons c m ih =>
    obtain ⟨a, v⟩ := c
    have hm' := hm
    simp only [Memory.wfFrom, Bool.and_eq_true, decide_eq_true_eq] at hm
    cases n with
    | nil => exact absurd (by simpa [Memory.read] using h a) hm.1.2
    | cons d n =>
      obtain ⟨b, w⟩ := d
      simp only [Memory.wfFrom, Bool.and_eq_true, decide_eq_true_eq] at hn
      have hab : a = b := by
        rcases Nat.lt_trichotomy a b with hlt | heq | hgt
        · have := h a
          simp only [Memory.read, if_true, show a ≠ b by omega, if_false] at this
          rw [Memory.read_of_lt hn.2 (by omega)] at this
          exact absurd this hm.1.2
        · exact heq
        · have := h b
          simp only [Memory.read, if_true, show b ≠ a by omega, if_false] at this
          rw [Memory.read_of_lt hm.2 (by omega)] at this
          exact absurd this.symm hn.1.2
      subst hab
      have hvw : v = w := by simpa [Memory.read] using h a
      subst hvw
      congr 1
      refine ih hm.2 hn.2 fun k => ?_
      by_cases hk : k = a
      · subst hk
        rw [Memory.read_of_lt hm.2 (by omega), Memory.read_of_lt hn.2 (by omega)]
      · simpa [Memory.read, hk] using h k

end Sys2Proof.Machine
end

