-- ==== Sys2Proof/Laws/State.lean ====
section
/-! SUPPORT. One lemma for each field of the state under each named update, true by rfl. -/

namespace Sys2Proof.Machine

/-! ### A write of PC (R24, R36) -/

@[simp] theorem State.setPc_a (s : State) (v : Word) : (s.setPc v).a = s.a := rfl
@[simp] theorem State.setPc_b (s : State) (v : Word) : (s.setPc v).b = s.b := rfl
@[simp] theorem State.setPc_x (s : State) (v : Word) : (s.setPc v).x = s.x := rfl
@[simp] theorem State.setPc_y (s : State) (v : Word) : (s.setPc v).y = s.y := rfl
@[simp] theorem State.setPc_u (s : State) (v : Word) : (s.setPc v).u = s.u := rfl
@[simp] theorem State.setPc_s (s : State) (v : Word) : (s.setPc v).s = s.s := rfl
@[simp] theorem State.setPc_pc (s : State) (v : Word) : (s.setPc v).pc = v := rfl
@[simp] theorem State.setPc_dp (s : State) (v : Word) : (s.setPc v).dp = s.dp := rfl
@[simp] theorem State.setPc_cc (s : State) (v : Word) : (s.setPc v).cc = s.cc := rfl
@[simp] theorem State.setPc_r1 (s : State) (v : Word) : (s.setPc v).r1 = s.r1 := rfl
@[simp] theorem State.setPc_r2 (s : State) (v : Word) : (s.setPc v).r2 = s.r2 := rfl
@[simp] theorem State.setPc_ea (s : State) (v : Word) : (s.setPc v).ea = s.ea := rfl
@[simp] theorem State.setPc_cond (s : State) (v : Word) : (s.setPc v).cond = s.cond := rfl
@[simp] theorem State.setPc_op (s : State) (v : Word) : (s.setPc v).op = s.op := rfl
@[simp] theorem State.setPc_page (s : State) (v : Word) : (s.setPc v).page = s.page := rfl
@[simp] theorem State.setPc_ntck (s : State) (v : Word) : (s.setPc v).ntck = s.ntck := rfl
@[simp] theorem State.setPc_run (s : State) (v : Word) : (s.setPc v).run = s.run := rfl
@[simp] theorem State.setPc_latches (s : State) (v : Word) : (s.setPc v).latches = s.latches := rfl
@[simp] theorem State.setPc_mem (s : State) (v : Word) : (s.setPc v).mem = s.mem := rfl
@[simp] theorem State.setPc_windows (s : State) (v : Word) : (s.setPc v).windows = s.windows := rfl
@[simp] theorem State.setPc_nextHandle (s : State) (v : Word) : (s.setPc v).nextHandle = s.nextHandle := rfl
@[simp] theorem State.setPc_deviceState (s : State) (v : Word) : (s.setPc v).deviceState = s.deviceState := rfl
@[simp] theorem State.setPc_events (s : State) (v : Word) : (s.setPc v).events = s.events ++ [.pcNotify v] := rfl
@[simp] theorem State.setPc_illegalCount (s : State) (v : Word) : (s.setPc v).illegalCount = s.illegalCount := rfl
@[simp] theorem State.setPc_draws (s : State) (v : Word) : (s.setPc v).draws = s.draws := rfl
@[simp] theorem State.setPc_cfg (s : State) (v : Word) : (s.setPc v).cfg = s.cfg := rfl
@[simp] theorem State.setPc_asm (s : State) (v : Word) : (s.setPc v).asm = s.asm := rfl

/-! ### One output event -/

@[simp] theorem State.emit_a (s : State) (e : Event) : (s.emit e).a = s.a := rfl
@[simp] theorem State.emit_b (s : State) (e : Event) : (s.emit e).b = s.b := rfl
@[simp] theorem State.emit_x (s : State) (e : Event) : (s.emit e).x = s.x := rfl
@[simp] theorem State.emit_y (s : State) (e : Event) : (s.emit e).y = s.y := rfl
@[simp] theorem State.emit_u (s : State) (e : Event) : (s.emit e).u = s.u := rfl
@[simp] theorem State.emit_s (s : State) (e : Event) : (s.emit e).s = s.s := rfl
@[simp] theorem State.emit_pc (s : State) (e : Event) : (s.emit e).pc = s.pc := rfl
@[simp] theorem State.emit_dp (s : State) (e : Event) : (s.emit e).dp = s.dp := rfl
@[simp] theorem State.emit_cc (s : State) (e : Event) : (s.emit e).cc = s.cc := rfl
@[simp] theorem State.emit_r1 (s : State) (e : Event) : (s.emit e).r1 = s.r1 := rfl
@[simp] theorem State.emit_r2 (s : State) (e : Event) : (s.emit e).r2 = s.r2 := rfl
@[simp] theorem State.emit_ea (s : State) (e : Event) : (s.emit e).ea = s.ea := rfl
@[simp] theorem State.emit_cond (s : State) (e : Event) : (s.emit e).cond = s.cond := rfl
@[simp] theorem State.emit_op (s : State) (e : Event) : (s.emit e).op = s.op := rfl
@[simp] theorem State.emit_page (s : State) (e : Event) : (s.emit e).page = s.page := rfl
@[simp] theorem State.emit_ntck (s : State) (e : Event) : (s.emit e).ntck = s.ntck := rfl
@[simp] theorem State.emit_run (s : State) (e : Event) : (s.emit e).run = s.run := rfl
@[simp] theorem State.emit_latches (s : State) (e : Event) : (s.emit e).latches = s.latches := rfl
@[simp] theorem State.emit_mem (s : State) (e : Event) : (s.emit e).mem = s.mem := rfl
@[simp] theorem State.emit_windows (s : State) (e : Event) : (s.emit e).windows = s.windows := rfl
@[simp] theorem State.emit_nextHandle (s : State) (e : Event) : (s.emit e).nextHandle = s.nextHandle := rfl
@[simp] theorem State.emit_deviceState (s : State) (e : Event) : (s.emit e).deviceState = s.deviceState := rfl
@[simp] theorem State.emit_events (s : State) (e : Event) : (s.emit e).events = s.events ++ [e] := rfl
@[simp] theorem State.emit_illegalCount (s : State) (e : Event) : (s.emit e).illegalCount = s.illegalCount := rfl
@[simp] theorem State.emit_draws (s : State) (e : Event) : (s.emit e).draws = s.draws := rfl
@[simp] theorem State.emit_cfg (s : State) (e : Event) : (s.emit e).cfg = s.cfg := rfl
@[simp] theorem State.emit_asm (s : State) (e : Event) : (s.emit e).asm = s.asm := rfl

/-! ### A flag-update descriptor (R27) -/

@[simp] theorem State.flags_a (s : State) (d : FlagUpdate) : (s.flags d).a = s.a := rfl
@[simp] theorem State.flags_b (s : State) (d : FlagUpdate) : (s.flags d).b = s.b := rfl
@[simp] theorem State.flags_x (s : State) (d : FlagUpdate) : (s.flags d).x = s.x := rfl
@[simp] theorem State.flags_y (s : State) (d : FlagUpdate) : (s.flags d).y = s.y := rfl
@[simp] theorem State.flags_u (s : State) (d : FlagUpdate) : (s.flags d).u = s.u := rfl
@[simp] theorem State.flags_s (s : State) (d : FlagUpdate) : (s.flags d).s = s.s := rfl
@[simp] theorem State.flags_pc (s : State) (d : FlagUpdate) : (s.flags d).pc = s.pc := rfl
@[simp] theorem State.flags_dp (s : State) (d : FlagUpdate) : (s.flags d).dp = s.dp := rfl
@[simp] theorem State.flags_cc (s : State) (d : FlagUpdate) : (s.flags d).cc = d.apply s.cc := rfl
@[simp] theorem State.flags_r1 (s : State) (d : FlagUpdate) : (s.flags d).r1 = s.r1 := rfl
@[simp] theorem State.flags_r2 (s : State) (d : FlagUpdate) : (s.flags d).r2 = s.r2 := rfl
@[simp] theorem State.flags_ea (s : State) (d : FlagUpdate) : (s.flags d).ea = s.ea := rfl
@[simp] theorem State.flags_cond (s : State) (d : FlagUpdate) : (s.flags d).cond = s.cond := rfl
@[simp] theorem State.flags_op (s : State) (d : FlagUpdate) : (s.flags d).op = s.op := rfl
@[simp] theorem State.flags_page (s : State) (d : FlagUpdate) : (s.flags d).page = s.page := rfl
@[simp] theorem State.flags_ntck (s : State) (d : FlagUpdate) : (s.flags d).ntck = s.ntck := rfl
@[simp] theorem State.flags_run (s : State) (d : FlagUpdate) : (s.flags d).run = s.run := rfl
@[simp] theorem State.flags_latches (s : State) (d : FlagUpdate) : (s.flags d).latches = s.latches := rfl
@[simp] theorem State.flags_mem (s : State) (d : FlagUpdate) : (s.flags d).mem = s.mem := rfl
@[simp] theorem State.flags_windows (s : State) (d : FlagUpdate) : (s.flags d).windows = s.windows := rfl
@[simp] theorem State.flags_nextHandle (s : State) (d : FlagUpdate) : (s.flags d).nextHandle = s.nextHandle := rfl
@[simp] theorem State.flags_deviceState (s : State) (d : FlagUpdate) : (s.flags d).deviceState = s.deviceState := rfl
@[simp] theorem State.flags_events (s : State) (d : FlagUpdate) : (s.flags d).events = s.events := rfl
@[simp] theorem State.flags_illegalCount (s : State) (d : FlagUpdate) : (s.flags d).illegalCount = s.illegalCount := rfl
@[simp] theorem State.flags_draws (s : State) (d : FlagUpdate) : (s.flags d).draws = s.draws := rfl
@[simp] theorem State.flags_cfg (s : State) (d : FlagUpdate) : (s.flags d).cfg = s.cfg := rfl
@[simp] theorem State.flags_asm (s : State) (d : FlagUpdate) : (s.flags d).asm = s.asm := rfl

/-! ### A `poke` (R62): the fields no device reaches -/

@[simp] theorem State.poke_a (s : State) (p : Word) (v : Byte) : (s.poke p v).a = s.a := rfl
@[simp] theorem State.poke_b (s : State) (p : Word) (v : Byte) : (s.poke p v).b = s.b := rfl
@[simp] theorem State.poke_x (s : State) (p : Word) (v : Byte) : (s.poke p v).x = s.x := rfl
@[simp] theorem State.poke_y (s : State) (p : Word) (v : Byte) : (s.poke p v).y = s.y := rfl
@[simp] theorem State.poke_u (s : State) (p : Word) (v : Byte) : (s.poke p v).u = s.u := rfl
@[simp] theorem State.poke_s (s : State) (p : Word) (v : Byte) : (s.poke p v).s = s.s := rfl
@[simp] theorem State.poke_pc (s : State) (p : Word) (v : Byte) : (s.poke p v).pc = s.pc := rfl
@[simp] theorem State.poke_dp (s : State) (p : Word) (v : Byte) : (s.poke p v).dp = s.dp := rfl
@[simp] theorem State.poke_cc (s : State) (p : Word) (v : Byte) : (s.poke p v).cc = s.cc := rfl
@[simp] theorem State.poke_r1 (s : State) (p : Word) (v : Byte) : (s.poke p v).r1 = s.r1 := rfl
@[simp] theorem State.poke_r2 (s : State) (p : Word) (v : Byte) : (s.poke p v).r2 = s.r2 := rfl
@[simp] theorem State.poke_ea (s : State) (p : Word) (v : Byte) : (s.poke p v).ea = s.ea := rfl
@[simp] theorem State.poke_cond (s : State) (p : Word) (v : Byte) : (s.poke p v).cond = s.cond := rfl
@[simp] theorem State.poke_op (s : State) (p : Word) (v : Byte) : (s.poke p v).op = s.op := rfl
@[simp] theorem State.poke_page (s : State) (p : Word) (v : Byte) : (s.poke p v).page = s.page := rfl
@[simp] theorem State.poke_ntck (s : State) (p : Word) (v : Byte) : (s.poke p v).ntck = s.ntck := rfl
@[simp] theorem State.poke_run (s : State) (p : Word) (v : Byte) : (s.poke p v).run = s.run := rfl
@[simp] theorem State.poke_windows (s : State) (p : Word) (v : Byte) : (s.poke p v).windows = s.windows := rfl
@[simp] theorem State.poke_nextHandle (s : State) (p : Word) (v : Byte) : (s.poke p v).nextHandle = s.nextHandle := rfl
@[simp] theorem State.poke_illegalCount (s : State) (p : Word) (v : Byte) : (s.poke p v).illegalCount = s.illegalCount := rfl
@[simp] theorem State.poke_draws (s : State) (p : Word) (v : Byte) : (s.poke p v).draws = s.draws := rfl
@[simp] theorem State.poke_cfg (s : State) (p : Word) (v : Byte) : (s.poke p v).cfg = s.cfg := rfl
@[simp] theorem State.poke_asm (s : State) (p : Word) (v : Byte) : (s.poke p v).asm = s.asm := rfl

/-! ### `ld1` (R159) -/

@[simp] theorem State.ld1_a (s : State) (r : Reg) : (s.ld1 r).a = s.a := rfl
@[simp] theorem State.ld1_b (s : State) (r : Reg) : (s.ld1 r).b = s.b := rfl
@[simp] theorem State.ld1_x (s : State) (r : Reg) : (s.ld1 r).x = s.x := rfl
@[simp] theorem State.ld1_y (s : State) (r : Reg) : (s.ld1 r).y = s.y := rfl
@[simp] theorem State.ld1_u (s : State) (r : Reg) : (s.ld1 r).u = s.u := rfl
@[simp] theorem State.ld1_s (s : State) (r : Reg) : (s.ld1 r).s = s.s := rfl
@[simp] theorem State.ld1_pc (s : State) (r : Reg) : (s.ld1 r).pc = s.pc := rfl
@[simp] theorem State.ld1_dp (s : State) (r : Reg) : (s.ld1 r).dp = s.dp := rfl
@[simp] theorem State.ld1_cc (s : State) (r : Reg) : (s.ld1 r).cc = s.cc := rfl
@[simp] theorem State.ld1_r1 (s : State) (r : Reg) : (s.ld1 r).r1 = s.reg r := rfl
@[simp] theorem State.ld1_r2 (s : State) (r : Reg) : (s.ld1 r).r2 = s.r2 := rfl
@[simp] theorem State.ld1_ea (s : State) (r : Reg) : (s.ld1 r).ea = s.ea := rfl
@[simp] theorem State.ld1_cond (s : State) (r : Reg) : (s.ld1 r).cond = s.cond := rfl
@[simp] theorem State.ld1_op (s : State) (r : Reg) : (s.ld1 r).op = s.op := rfl
@[simp] theorem State.ld1_page (s : State) (r : Reg) : (s.ld1 r).page = s.page := rfl
@[simp] theorem State.ld1_ntck (s : State) (r : Reg) : (s.ld1 r).ntck = s.ntck := rfl
@[simp] theorem State.ld1_run (s : State) (r : Reg) : (s.ld1 r).run = s.run := rfl
@[simp] theorem State.ld1_latches (s : State) (r : Reg) : (s.ld1 r).latches = s.latches := rfl
@[simp] theorem State.ld1_mem (s : State) (r : Reg) : (s.ld1 r).mem = s.mem := rfl
@[simp] theorem State.ld1_windows (s : State) (r : Reg) : (s.ld1 r).windows = s.windows := rfl
@[simp] theorem State.ld1_nextHandle (s : State) (r : Reg) : (s.ld1 r).nextHandle = s.nextHandle := rfl
@[simp] theorem State.ld1_deviceState (s : State) (r : Reg) : (s.ld1 r).deviceState = s.deviceState := rfl
@[simp] theorem State.ld1_events (s : State) (r : Reg) : (s.ld1 r).events = s.events := rfl
@[simp] theorem State.ld1_illegalCount (s : State) (r : Reg) : (s.ld1 r).illegalCount = s.illegalCount := rfl
@[simp] theorem State.ld1_draws (s : State) (r : Reg) : (s.ld1 r).draws = s.draws := rfl
@[simp] theorem State.ld1_cfg (s : State) (r : Reg) : (s.ld1 r).cfg = s.cfg := rfl
@[simp] theorem State.ld1_asm (s : State) (r : Reg) : (s.ld1 r).asm = s.asm := rfl

/-! ### `ld2` (R159) -/

@[simp] theorem State.ld2_a (s : State) (r : Reg) : (s.ld2 r).a = s.a := rfl
@[simp] theorem State.ld2_b (s : State) (r : Reg) : (s.ld2 r).b = s.b := rfl
@[simp] theorem State.ld2_x (s : State) (r : Reg) : (s.ld2 r).x = s.x := rfl
@[simp] theorem State.ld2_y (s : State) (r : Reg) : (s.ld2 r).y = s.y := rfl
@[simp] theorem State.ld2_u (s : State) (r : Reg) : (s.ld2 r).u = s.u := rfl
@[simp] theorem State.ld2_s (s : State) (r : Reg) : (s.ld2 r).s = s.s := rfl
@[simp] theorem State.ld2_pc (s : State) (r : Reg) : (s.ld2 r).pc = s.pc := rfl
@[simp] theorem State.ld2_dp (s : State) (r : Reg) : (s.ld2 r).dp = s.dp := rfl
@[simp] theorem State.ld2_cc (s : State) (r : Reg) : (s.ld2 r).cc = s.cc := rfl
@[simp] theorem State.ld2_r1 (s : State) (r : Reg) : (s.ld2 r).r1 = s.r1 := rfl
@[simp] theorem State.ld2_r2 (s : State) (r : Reg) : (s.ld2 r).r2 = s.reg r := rfl
@[simp] theorem State.ld2_ea (s : State) (r : Reg) : (s.ld2 r).ea = s.ea := rfl
@[simp] theorem State.ld2_cond (s : State) (r : Reg) : (s.ld2 r).cond = s.cond := rfl
@[simp] theorem State.ld2_op (s : State) (r : Reg) : (s.ld2 r).op = s.op := rfl
@[simp] theorem State.ld2_page (s : State) (r : Reg) : (s.ld2 r).page = s.page := rfl
@[simp] theorem State.ld2_ntck (s : State) (r : Reg) : (s.ld2 r).ntck = s.ntck := rfl
@[simp] theorem State.ld2_run (s : State) (r : Reg) : (s.ld2 r).run = s.run := rfl
@[simp] theorem State.ld2_latches (s : State) (r : Reg) : (s.ld2 r).latches = s.latches := rfl
@[simp] theorem State.ld2_mem (s : State) (r : Reg) : (s.ld2 r).mem = s.mem := rfl
@[simp] theorem State.ld2_windows (s : State) (r : Reg) : (s.ld2 r).windows = s.windows := rfl
@[simp] theorem State.ld2_nextHandle (s : State) (r : Reg) : (s.ld2 r).nextHandle = s.nextHandle := rfl
@[simp] theorem State.ld2_deviceState (s : State) (r : Reg) : (s.ld2 r).deviceState = s.deviceState := rfl
@[simp] theorem State.ld2_events (s : State) (r : Reg) : (s.ld2 r).events = s.events := rfl
@[simp] theorem State.ld2_illegalCount (s : State) (r : Reg) : (s.ld2 r).illegalCount = s.illegalCount := rfl
@[simp] theorem State.ld2_draws (s : State) (r : Reg) : (s.ld2 r).draws = s.draws := rfl
@[simp] theorem State.ld2_cfg (s : State) (r : Reg) : (s.ld2 r).cfg = s.cfg := rfl
@[simp] theorem State.ld2_asm (s : State) (r : Reg) : (s.ld2 r).asm = s.asm := rfl

/-! ### An 8-bit ALU result (R200) -/

@[simp] theorem State.put8_a (s : State) (r : Alu 8) : (s.put8 r).a = s.a := rfl
@[simp] theorem State.put8_b (s : State) (r : Alu 8) : (s.put8 r).b = s.b := rfl
@[simp] theorem State.put8_x (s : State) (r : Alu 8) : (s.put8 r).x = s.x := rfl
@[simp] theorem State.put8_y (s : State) (r : Alu 8) : (s.put8 r).y = s.y := rfl
@[simp] theorem State.put8_u (s : State) (r : Alu 8) : (s.put8 r).u = s.u := rfl
@[simp] theorem State.put8_s (s : State) (r : Alu 8) : (s.put8 r).s = s.s := rfl
@[simp] theorem State.put8_pc (s : State) (r : Alu 8) : (s.put8 r).pc = s.pc := rfl
@[simp] theorem State.put8_dp (s : State) (r : Alu 8) : (s.put8 r).dp = s.dp := rfl
@[simp] theorem State.put8_cc (s : State) (r : Alu 8) : (s.put8 r).cc = r.update.apply s.cc := rfl
@[simp] theorem State.put8_r1 (s : State) (r : Alu 8) : (s.put8 r).r1 = zext16 r.result := rfl
@[simp] theorem State.put8_r2 (s : State) (r : Alu 8) : (s.put8 r).r2 = s.r2 := rfl
@[simp] theorem State.put8_ea (s : State) (r : Alu 8) : (s.put8 r).ea = s.ea := rfl
@[simp] theorem State.put8_cond (s : State) (r : Alu 8) : (s.put8 r).cond = s.cond := rfl
@[simp] theorem State.put8_op (s : State) (r : Alu 8) : (s.put8 r).op = s.op := rfl
@[simp] theorem State.put8_page (s : State) (r : Alu 8) : (s.put8 r).page = s.page := rfl
@[simp] theorem State.put8_ntck (s : State) (r : Alu 8) : (s.put8 r).ntck = s.ntck := rfl
@[simp] theorem State.put8_run (s : State) (r : Alu 8) : (s.put8 r).run = s.run := rfl
@[simp] theorem State.put8_latches (s : State) (r : Alu 8) : (s.put8 r).latches = s.latches := rfl
@[simp] theorem State.put8_mem (s : State) (r : Alu 8) : (s.put8 r).mem = s.mem := rfl
@[simp] theorem State.put8_windows (s : State) (r : Alu 8) : (s.put8 r).windows = s.windows := rfl
@[simp] theorem State.put8_nextHandle (s : State) (r : Alu 8) : (s.put8 r).nextHandle = s.nextHandle := rfl
@[simp] theorem State.put8_deviceState (s : State) (r : Alu 8) : (s.put8 r).deviceState = s.deviceState := rfl
@[simp] theorem State.put8_events (s : State) (r : Alu 8) : (s.put8 r).events = s.events := rfl
@[simp] theorem State.put8_illegalCount (s : State) (r : Alu 8) : (s.put8 r).illegalCount = s.illegalCount := rfl
@[simp] theorem State.put8_draws (s : State) (r : Alu 8) : (s.put8 r).draws = s.draws := rfl
@[simp] theorem State.put8_cfg (s : State) (r : Alu 8) : (s.put8 r).cfg = s.cfg := rfl
@[simp] theorem State.put8_asm (s : State) (r : Alu 8) : (s.put8 r).asm = s.asm := rfl

/-! ### A 16-bit ALU result (R200) -/

@[simp] theorem State.put16_a (s : State) (r : Alu 16) : (s.put16 r).a = s.a := rfl
@[simp] theorem State.put16_b (s : State) (r : Alu 16) : (s.put16 r).b = s.b := rfl
@[simp] theorem State.put16_x (s : State) (r : Alu 16) : (s.put16 r).x = s.x := rfl
@[simp] theorem State.put16_y (s : State) (r : Alu 16) : (s.put16 r).y = s.y := rfl
@[simp] theorem State.put16_u (s : State) (r : Alu 16) : (s.put16 r).u = s.u := rfl
@[simp] theorem State.put16_s (s : State) (r : Alu 16) : (s.put16 r).s = s.s := rfl
@[simp] theorem State.put16_pc (s : State) (r : Alu 16) : (s.put16 r).pc = s.pc := rfl
@[simp] theorem State.put16_dp (s : State) (r : Alu 16) : (s.put16 r).dp = s.dp := rfl
@[simp] theorem State.put16_cc (s : State) (r : Alu 16) : (s.put16 r).cc = r.update.apply s.cc := rfl
@[simp] theorem State.put16_r1 (s : State) (r : Alu 16) : (s.put16 r).r1 = r.result := rfl
@[simp] theorem State.put16_r2 (s : State) (r : Alu 16) : (s.put16 r).r2 = s.r2 := rfl
@[simp] theorem State.put16_ea (s : State) (r : Alu 16) : (s.put16 r).ea = s.ea := rfl
@[simp] theorem State.put16_cond (s : State) (r : Alu 16) : (s.put16 r).cond = s.cond := rfl
@[simp] theorem State.put16_op (s : State) (r : Alu 16) : (s.put16 r).op = s.op := rfl
@[simp] theorem State.put16_page (s : State) (r : Alu 16) : (s.put16 r).page = s.page := rfl
@[simp] theorem State.put16_ntck (s : State) (r : Alu 16) : (s.put16 r).ntck = s.ntck := rfl
@[simp] theorem State.put16_run (s : State) (r : Alu 16) : (s.put16 r).run = s.run := rfl
@[simp] theorem State.put16_latches (s : State) (r : Alu 16) : (s.put16 r).latches = s.latches := rfl
@[simp] theorem State.put16_mem (s : State) (r : Alu 16) : (s.put16 r).mem = s.mem := rfl
@[simp] theorem State.put16_windows (s : State) (r : Alu 16) : (s.put16 r).windows = s.windows := rfl
@[simp] theorem State.put16_nextHandle (s : State) (r : Alu 16) : (s.put16 r).nextHandle = s.nextHandle := rfl
@[simp] theorem State.put16_deviceState (s : State) (r : Alu 16) : (s.put16 r).deviceState = s.deviceState := rfl
@[simp] theorem State.put16_events (s : State) (r : Alu 16) : (s.put16 r).events = s.events := rfl
@[simp] theorem State.put16_illegalCount (s : State) (r : Alu 16) : (s.put16 r).illegalCount = s.illegalCount := rfl
@[simp] theorem State.put16_draws (s : State) (r : Alu 16) : (s.put16 r).draws = s.draws := rfl
@[simp] theorem State.put16_cfg (s : State) (r : Alu 16) : (s.put16 r).cfg = s.cfg := rfl
@[simp] theorem State.put16_asm (s : State) (r : Alu 16) : (s.put16 r).asm = s.asm := rfl

/-! ### `chk` (R166) -/

@[simp] theorem State.chk_a (s : State) (c : ChkCond) : (s.chk c).a = s.a := rfl
@[simp] theorem State.chk_b (s : State) (c : ChkCond) : (s.chk c).b = s.b := rfl
@[simp] theorem State.chk_x (s : State) (c : ChkCond) : (s.chk c).x = s.x := rfl
@[simp] theorem State.chk_y (s : State) (c : ChkCond) : (s.chk c).y = s.y := rfl
@[simp] theorem State.chk_u (s : State) (c : ChkCond) : (s.chk c).u = s.u := rfl
@[simp] theorem State.chk_s (s : State) (c : ChkCond) : (s.chk c).s = s.s := rfl
@[simp] theorem State.chk_pc (s : State) (c : ChkCond) : (s.chk c).pc = s.pc := rfl
@[simp] theorem State.chk_dp (s : State) (c : ChkCond) : (s.chk c).dp = s.dp := rfl
@[simp] theorem State.chk_cc (s : State) (c : ChkCond) : (s.chk c).cc = s.cc := rfl
@[simp] theorem State.chk_r1 (s : State) (c : ChkCond) : (s.chk c).r1 = s.r1 := rfl
@[simp] theorem State.chk_r2 (s : State) (c : ChkCond) : (s.chk c).r2 = s.r2 := rfl
@[simp] theorem State.chk_ea (s : State) (c : ChkCond) : (s.chk c).ea = s.ea := rfl
@[simp] theorem State.chk_cond (s : State) (c : ChkCond) : (s.chk c).cond = c.holds s := rfl
@[simp] theorem State.chk_op (s : State) (c : ChkCond) : (s.chk c).op = s.op := rfl
@[simp] theorem State.chk_page (s : State) (c : ChkCond) : (s.chk c).page = s.page := rfl
@[simp] theorem State.chk_ntck (s : State) (c : ChkCond) : (s.chk c).ntck = s.ntck := rfl
@[simp] theorem State.chk_run (s : State) (c : ChkCond) : (s.chk c).run = s.run := rfl
@[simp] theorem State.chk_latches (s : State) (c : ChkCond) : (s.chk c).latches = s.latches := rfl
@[simp] theorem State.chk_mem (s : State) (c : ChkCond) : (s.chk c).mem = s.mem := rfl
@[simp] theorem State.chk_windows (s : State) (c : ChkCond) : (s.chk c).windows = s.windows := rfl
@[simp] theorem State.chk_nextHandle (s : State) (c : ChkCond) : (s.chk c).nextHandle = s.nextHandle := rfl
@[simp] theorem State.chk_deviceState (s : State) (c : ChkCond) : (s.chk c).deviceState = s.deviceState := rfl
@[simp] theorem State.chk_events (s : State) (c : ChkCond) : (s.chk c).events = s.events := rfl
@[simp] theorem State.chk_illegalCount (s : State) (c : ChkCond) : (s.chk c).illegalCount = s.illegalCount := rfl
@[simp] theorem State.chk_draws (s : State) (c : ChkCond) : (s.chk c).draws = s.draws := rfl
@[simp] theorem State.chk_cfg (s : State) (c : ChkCond) : (s.chk c).cfg = s.cfg := rfl
@[simp] theorem State.chk_asm (s : State) (c : ChkCond) : (s.chk c).asm = s.asm := rfl

/-! ### `pc <- EA; ntck` (R169) -/

@[simp] theorem State.jump_a (s : State) : (s.jump).a = s.a := rfl
@[simp] theorem State.jump_b (s : State) : (s.jump).b = s.b := rfl
@[simp] theorem State.jump_x (s : State) : (s.jump).x = s.x := rfl
@[simp] theorem State.jump_y (s : State) : (s.jump).y = s.y := rfl
@[simp] theorem State.jump_u (s : State) : (s.jump).u = s.u := rfl
@[simp] theorem State.jump_s (s : State) : (s.jump).s = s.s := rfl
@[simp] theorem State.jump_pc (s : State) : (s.jump).pc = s.ea := rfl
@[simp] theorem State.jump_dp (s : State) : (s.jump).dp = s.dp := rfl
@[simp] theorem State.jump_cc (s : State) : (s.jump).cc = s.cc := rfl
@[simp] theorem State.jump_r1 (s : State) : (s.jump).r1 = s.r1 := rfl
@[simp] theorem State.jump_r2 (s : State) : (s.jump).r2 = s.r2 := rfl
@[simp] theorem State.jump_ea (s : State) : (s.jump).ea = s.ea := rfl
@[simp] theorem State.jump_cond (s : State) : (s.jump).cond = s.cond := rfl
@[simp] theorem State.jump_op (s : State) : (s.jump).op = s.op := rfl
@[simp] theorem State.jump_page (s : State) : (s.jump).page = s.page := rfl
@[simp] theorem State.jump_ntck (s : State) : (s.jump).ntck = true := rfl
@[simp] theorem State.jump_run (s : State) : (s.jump).run = s.run := rfl
@[simp] theorem State.jump_latches (s : State) : (s.jump).latches = s.latches := rfl
@[simp] theorem State.jump_mem (s : State) : (s.jump).mem = s.mem := rfl
@[simp] theorem State.jump_windows (s : State) : (s.jump).windows = s.windows := rfl
@[simp] theorem State.jump_nextHandle (s : State) : (s.jump).nextHandle = s.nextHandle := rfl
@[simp] theorem State.jump_deviceState (s : State) : (s.jump).deviceState = s.deviceState := rfl
@[simp] theorem State.jump_events (s : State) : (s.jump).events = s.events ++ [.pcNotify s.ea] := rfl
@[simp] theorem State.jump_illegalCount (s : State) : (s.jump).illegalCount = s.illegalCount := rfl
@[simp] theorem State.jump_draws (s : State) : (s.jump).draws = s.draws := rfl
@[simp] theorem State.jump_cfg (s : State) : (s.jump).cfg = s.cfg := rfl
@[simp] theorem State.jump_asm (s : State) : (s.jump).asm = s.asm := rfl

/-! ### `rel8` (R154) -/

@[simp] theorem State.rel8_a (s : State) (o : Byte) : (s.rel8 o).a = s.a := rfl
@[simp] theorem State.rel8_b (s : State) (o : Byte) : (s.rel8 o).b = s.b := rfl
@[simp] theorem State.rel8_x (s : State) (o : Byte) : (s.rel8 o).x = s.x := rfl
@[simp] theorem State.rel8_y (s : State) (o : Byte) : (s.rel8 o).y = s.y := rfl
@[simp] theorem State.rel8_u (s : State) (o : Byte) : (s.rel8 o).u = s.u := rfl
@[simp] theorem State.rel8_s (s : State) (o : Byte) : (s.rel8 o).s = s.s := rfl
@[simp] theorem State.rel8_pc (s : State) (o : Byte) : (s.rel8 o).pc = s.pc := rfl
@[simp] theorem State.rel8_dp (s : State) (o : Byte) : (s.rel8 o).dp = s.dp := rfl
@[simp] theorem State.rel8_cc (s : State) (o : Byte) : (s.rel8 o).cc = s.cc := rfl
@[simp] theorem State.rel8_r1 (s : State) (o : Byte) : (s.rel8 o).r1 = s.r1 := rfl
@[simp] theorem State.rel8_r2 (s : State) (o : Byte) : (s.rel8 o).r2 = s.r2 := rfl
@[simp] theorem State.rel8_ea (s : State) (o : Byte) : (s.rel8 o).ea = s.pc + sext16 o := rfl
@[simp] theorem State.rel8_cond (s : State) (o : Byte) : (s.rel8 o).cond = s.cond := rfl
@[simp] theorem State.rel8_op (s : State) (o : Byte) : (s.rel8 o).op = s.op := rfl
@[simp] theorem State.rel8_page (s : State) (o : Byte) : (s.rel8 o).page = s.page := rfl
@[simp] theorem State.rel8_ntck (s : State) (o : Byte) : (s.rel8 o).ntck = s.ntck := rfl
@[simp] theorem State.rel8_run (s : State) (o : Byte) : (s.rel8 o).run = s.run := rfl
@[simp] theorem State.rel8_latches (s : State) (o : Byte) : (s.rel8 o).latches = s.latches := rfl
@[simp] theorem State.rel8_mem (s : State) (o : Byte) : (s.rel8 o).mem = s.mem := rfl
@[simp] theorem State.rel8_windows (s : State) (o : Byte) : (s.rel8 o).windows = s.windows := rfl
@[simp] theorem State.rel8_nextHandle (s : State) (o : Byte) : (s.rel8 o).nextHandle = s.nextHandle := rfl
@[simp] theorem State.rel8_deviceState (s : State) (o : Byte) : (s.rel8 o).deviceState = s.deviceState := rfl
@[simp] theorem State.rel8_events (s : State) (o : Byte) : (s.rel8 o).events = s.events := rfl
@[simp] theorem State.rel8_illegalCount (s : State) (o : Byte) : (s.rel8 o).illegalCount = s.illegalCount := rfl
@[simp] theorem State.rel8_draws (s : State) (o : Byte) : (s.rel8 o).draws = s.draws := rfl
@[simp] theorem State.rel8_cfg (s : State) (o : Byte) : (s.rel8 o).cfg = s.cfg := rfl
@[simp] theorem State.rel8_asm (s : State) (o : Byte) : (s.rel8 o).asm = s.asm := rfl

/-! ### `rel16` (R155) -/

@[simp] theorem State.rel16_a (s : State) (o : Word) : (s.rel16 o).a = s.a := rfl
@[simp] theorem State.rel16_b (s : State) (o : Word) : (s.rel16 o).b = s.b := rfl
@[simp] theorem State.rel16_x (s : State) (o : Word) : (s.rel16 o).x = s.x := rfl
@[simp] theorem State.rel16_y (s : State) (o : Word) : (s.rel16 o).y = s.y := rfl
@[simp] theorem State.rel16_u (s : State) (o : Word) : (s.rel16 o).u = s.u := rfl
@[simp] theorem State.rel16_s (s : State) (o : Word) : (s.rel16 o).s = s.s := rfl
@[simp] theorem State.rel16_pc (s : State) (o : Word) : (s.rel16 o).pc = s.pc := rfl
@[simp] theorem State.rel16_dp (s : State) (o : Word) : (s.rel16 o).dp = s.dp := rfl
@[simp] theorem State.rel16_cc (s : State) (o : Word) : (s.rel16 o).cc = s.cc := rfl
@[simp] theorem State.rel16_r1 (s : State) (o : Word) : (s.rel16 o).r1 = s.r1 := rfl
@[simp] theorem State.rel16_r2 (s : State) (o : Word) : (s.rel16 o).r2 = s.r2 := rfl
@[simp] theorem State.rel16_ea (s : State) (o : Word) : (s.rel16 o).ea = s.pc + o := rfl
@[simp] theorem State.rel16_cond (s : State) (o : Word) : (s.rel16 o).cond = s.cond := rfl
@[simp] theorem State.rel16_op (s : State) (o : Word) : (s.rel16 o).op = s.op := rfl
@[simp] theorem State.rel16_page (s : State) (o : Word) : (s.rel16 o).page = s.page := rfl
@[simp] theorem State.rel16_ntck (s : State) (o : Word) : (s.rel16 o).ntck = s.ntck := rfl
@[simp] theorem State.rel16_run (s : State) (o : Word) : (s.rel16 o).run = s.run := rfl
@[simp] theorem State.rel16_latches (s : State) (o : Word) : (s.rel16 o).latches = s.latches := rfl
@[simp] theorem State.rel16_mem (s : State) (o : Word) : (s.rel16 o).mem = s.mem := rfl
@[simp] theorem State.rel16_windows (s : State) (o : Word) : (s.rel16 o).windows = s.windows := rfl
@[simp] theorem State.rel16_nextHandle (s : State) (o : Word) : (s.rel16 o).nextHandle = s.nextHandle := rfl
@[simp] theorem State.rel16_deviceState (s : State) (o : Word) : (s.rel16 o).deviceState = s.deviceState := rfl
@[simp] theorem State.rel16_events (s : State) (o : Word) : (s.rel16 o).events = s.events := rfl
@[simp] theorem State.rel16_illegalCount (s : State) (o : Word) : (s.rel16 o).illegalCount = s.illegalCount := rfl
@[simp] theorem State.rel16_draws (s : State) (o : Word) : (s.rel16 o).draws = s.draws := rfl
@[simp] theorem State.rel16_cfg (s : State) (o : Word) : (s.rel16 o).cfg = s.cfg := rfl
@[simp] theorem State.rel16_asm (s : State) (o : Word) : (s.rel16 o).asm = s.asm := rfl

/-! ### A write of a register (R21): the fields no register write touches -/

@[simp] theorem State.setReg_r1 (s : State) (r : Reg) (v : Word) : (s.setReg r v).r1 = s.r1 := by
  cases r <;> rfl
@[simp] theorem State.setReg_r2 (s : State) (r : Reg) (v : Word) : (s.setReg r v).r2 = s.r2 := by
  cases r <;> rfl
@[simp] theorem State.setReg_ea (s : State) (r : Reg) (v : Word) : (s.setReg r v).ea = s.ea := by
  cases r <;> rfl
@[simp] theorem State.setReg_cond (s : State) (r : Reg) (v : Word) : (s.setReg r v).cond = s.cond := by
  cases r <;> rfl
@[simp] theorem State.setReg_op (s : State) (r : Reg) (v : Word) : (s.setReg r v).op = s.op := by
  cases r <;> rfl
@[simp] theorem State.setReg_page (s : State) (r : Reg) (v : Word) : (s.setReg r v).page = s.page := by
  cases r <;> rfl
@[simp] theorem State.setReg_ntck (s : State) (r : Reg) (v : Word) : (s.setReg r v).ntck = s.ntck := by
  cases r <;> rfl
@[simp] theorem State.setReg_run (s : State) (r : Reg) (v : Word) : (s.setReg r v).run = s.run := by
  cases r <;> rfl
@[simp] theorem State.setReg_latches (s : State) (r : Reg) (v : Word) : (s.setReg r v).latches = s.latches := by
  cases r <;> rfl
@[simp] theorem State.setReg_mem (s : State) (r : Reg) (v : Word) : (s.setReg r v).mem = s.mem := by
  cases r <;> rfl
@[simp] theorem State.setReg_windows (s : State) (r : Reg) (v : Word) : (s.setReg r v).windows = s.windows := by
  cases r <;> rfl
@[simp] theorem State.setReg_nextHandle (s : State) (r : Reg) (v : Word) : (s.setReg r v).nextHandle = s.nextHandle := by
  cases r <;> rfl
@[simp] theorem State.setReg_deviceState (s : State) (r : Reg) (v : Word) : (s.setReg r v).deviceState = s.deviceState := by
  cases r <;> rfl
@[simp] theorem State.setReg_illegalCount (s : State) (r : Reg) (v : Word) : (s.setReg r v).illegalCount = s.illegalCount := by
  cases r <;> rfl
@[simp] theorem State.setReg_draws (s : State) (r : Reg) (v : Word) : (s.setReg r v).draws = s.draws := by
  cases r <;> rfl
@[simp] theorem State.setReg_cfg (s : State) (r : Reg) (v : Word) : (s.setReg r v).cfg = s.cfg := by
  cases r <;> rfl
@[simp] theorem State.setReg_asm (s : State) (r : Reg) (v : Word) : (s.setReg r v).asm = s.asm := by
  cases r <;> rfl

/-! ### A write of a register by name (R21, R23) -/

@[simp] theorem State.setReg_A (s : State) (v : Word) : s.setReg .A v = { s with a := loByte v } := rfl
@[simp] theorem State.setReg_B (s : State) (v : Word) : s.setReg .B v = { s with b := loByte v } := rfl
@[simp] theorem State.setReg_D (s : State) (v : Word) : s.setReg .D v = { s with a := hiByte v, b := loByte v } := rfl
@[simp] theorem State.setReg_X (s : State) (v : Word) : s.setReg .X v = { s with x := v } := rfl
@[simp] theorem State.setReg_Y (s : State) (v : Word) : s.setReg .Y v = { s with y := v } := rfl
@[simp] theorem State.setReg_U (s : State) (v : Word) : s.setReg .U v = { s with u := v } := rfl
@[simp] theorem State.setReg_S (s : State) (v : Word) : s.setReg .S v = { s with s := v } := rfl
@[simp] theorem State.setReg_PC (s : State) (v : Word) : s.setReg .PC v = s.setPc v := rfl
@[simp] theorem State.setReg_DP (s : State) (v : Word) : s.setReg .DP v = { s with dp := loByte v } := rfl
@[simp] theorem State.setReg_CC (s : State) (v : Word) : s.setReg .CC v = { s with cc := loByte v } := rfl

/-! ### A read of a register by name (R20, R23) -/

@[simp] theorem State.reg_A (s : State) : s.reg .A = zext16 s.a := rfl
@[simp] theorem State.reg_B (s : State) : s.reg .B = zext16 s.b := rfl
@[simp] theorem State.reg_D (s : State) : s.reg .D = wordOf s.a s.b := rfl
@[simp] theorem State.reg_X (s : State) : s.reg .X = s.x := rfl
@[simp] theorem State.reg_Y (s : State) : s.reg .Y = s.y := rfl
@[simp] theorem State.reg_U (s : State) : s.reg .U = s.u := rfl
@[simp] theorem State.reg_S (s : State) : s.reg .S = s.s := rfl
@[simp] theorem State.reg_PC (s : State) : s.reg .PC = s.pc := rfl
@[simp] theorem State.reg_DP (s : State) : s.reg .DP = zext16 s.dp := rfl
@[simp] theorem State.reg_CC (s : State) : s.reg .CC = zext16 s.cc := rfl

end Sys2Proof.Machine
end

