-- ==== Sys2Proof/Laws/Ops.lean ====
section
/-! SUPPORT. What each shared operation can do, once: the memory port, the stacks, the entry, and `Keeps`, what no operation
of the engine changes. -/

namespace Sys2Proof.Machine

/-! ### The memory port (R60 to R65) -/

theorem State.memSize_pos (s : State) : 0 < s.memSize := Nat.two_pow_pos _

/-- Every masked address is inside the array (R61). -/
theorem State.mask_lt (s : State) (addr : Word) : s.mask addr < s.memSize := Nat.mod_lt _ s.memSize_pos

/-- A read depends on the memory and its size alone. -/
theorem State.peek_congr {s t : State} (hm : t.mem = s.mem) (hc : t.cfg = s.cfg) (addr : Word) :
    t.peek addr = s.peek addr := by
  simp only [State.peek, State.mask, State.memSize, hm, hc]

/-- The size and the mask depend on the parameters alone. -/
theorem State.mask_congr {s t : State} (hc : t.cfg = s.cfg) (addr : Word) : t.mask addr = s.mask addr := by
  simp only [State.mask, State.memSize, hc]

@[simp] theorem State.mask_poke (s : State) (p : Word) (v : Byte) (addr : Word) : (s.poke p v).mask addr = s.mask addr := rfl

@[simp] theorem State.mask_setReg (s : State) (r : Reg) (v : Word) (addr : Word) :
    (s.setReg r v).mask addr = s.mask addr := State.mask_congr (by simp) addr

@[simp] theorem State.peek_setReg (s : State) (r : Reg) (v : Word) (addr : Word) :
    (s.setReg r v).peek addr = s.peek addr := State.peek_congr (by simp) (by simp) addr

@[simp] theorem State.peek_flags (s : State) (d : FlagUpdate) (addr : Word) : (s.flags d).peek addr = s.peek addr := rfl

@[simp] theorem State.peek_setPc (s : State) (v addr : Word) : (s.setPc v).peek addr = s.peek addr := rfl

/-! ### A store and the devices (R62, R68, D39) -/

/-- What every store, event, latch set and device move keeps, a `poke` keeps, however deep its updates go. -/
theorem Bus.poke_induction {P : Bus → Prop} {cfg : Config} {ws : List Window}
    (hs : ∀ b a v, a < 2 ^ cfg.memBits.val → P b → P { b with mem := Memory.write a v b.mem })
    (he : ∀ b e, P b → P { b with events := b.events ++ [e] })
    (hl : ∀ b k, P b → P { b with latches := b.latches.set k true })
    (hd : ∀ b n, P b → P { b with deviceState := n }) :
    ∀ (d a : Nat) (v : Byte) (b : Bus), a < 2 ^ cfg.memBits.val → P b → P (Bus.poke cfg ws d a v b) := by
  have fold : ∀ {α : Type} (f : Bus → α → Bus), (∀ b x, P b → P (f b x)) → ∀ (l : List α) (b : Bus), P b → P (l.foldl f b) := by
    intro α f hf l
    induction l with
    | nil => exact fun b h => h
    | cons x l ih => exact fun b h => ih _ (hf b x h)
  intro d
  induction d with
  | zero => exact fun a v b ha h => fold _ (fun b o hb => he b _ hb) _ _ (hs b a v ha h)
  | succ d ih =>
    intro a v b ha h
    refine fold _ (fun b o hb => ?_) _ _ (hs b a v ha h)
    unfold Bus.update
    simp only
    split
    · exact he b _ hb
    · refine fold _ (fun b act hb => ?_) _ _ (hd _ _ (he b _ hb))
      cases act with
      | latch k => exact hl b k hb
      | poke addr w => exact ih _ w b (Nat.mod_lt _ (Nat.two_pow_pos _)) hb

/-- Where no window belongs to a device, a store on the bus is the write and the events, at every depth. -/
theorem Bus.poke_free {cfg : Config} {ws : List Window}
    (h : (ws.all fun w => cfg.devices.all fun r => r.owner != w.owner) = true) (d a : Nat) (v : Byte) (b : Bus) :
    Bus.poke cfg ws d a v b =
      { b with
        mem := Memory.write a v b.mem
        events := b.events ++ (ownersAt ws a).map fun o => .windowUpdate o a v } := by
  have told : ∀ (l : List Nat) (b : Bus),
      l.foldl (fun (b : Bus) o => { b with events := b.events ++ [Event.windowUpdate o a v] }) b =
        { b with events := b.events ++ l.map fun o => .windowUpdate o a v } := by
    intro l
    induction l with
    | nil => intro b; simp
    | cons o l ih => intro b; simp [ih]
  cases d with
  | zero => exact told _ _
  | succ d =>
    have free : ∀ o ∈ ownersAt ws a, ∀ r ∈ cfg.devices, r.owner ≠ o := by
      intro o ho r hr
      obtain ⟨w, hw, rfl⟩ := List.mem_map.mp ho
      have := List.all_eq_true.mp (List.all_eq_true.mp h w (List.mem_filter.mp hw).1) r hr
      simpa using this
    have quiet : ∀ (store : Word → Byte → Bus → Bus) (l : List Nat), (∀ o ∈ l, ∀ r ∈ cfg.devices, r.owner ≠ o) → ∀ b : Bus,
        l.foldl (Bus.update cfg store a v) b =
          l.foldl (fun (b : Bus) o => { b with events := b.events ++ [Event.windowUpdate o a v] }) b := by
      intro store l
      induction l with
      | nil => exact fun _ _ => rfl
      | cons o l ih =>
        intro hl b
        have none : ∀ n, cfg.devices.find? (fun r => DeviceRule.answers r n o a v) = Option.none := by
          intro n
          apply List.find?_eq_none.mpr
          intro r hr
          simp [DeviceRule.answers, hl o (by simp) r hr]
        simp only [List.foldl_cons]
        rw [show Bus.update cfg store a v b o = { b with events := b.events ++ [.windowUpdate o a v] } by
          simp only [Bus.update, none]]
        exact ih (fun o ho => hl o (by simp [ho])) _
    exact (quiet _ _ free _).trans (told _ _)

/-- Devices or not depends on the windows and the parameters alone. -/
theorem State.deviceFree_congr {s t : State} (hw : t.windows = s.windows) (hc : t.cfg = s.cfg) :
    t.deviceFree = s.deviceFree := by
  simp only [State.deviceFree, hw, hc]

/-- A `poke` where no window belongs to a device: the write and the notifications, nothing else (R62). -/
theorem State.poke_free {s : State} (h : s.deviceFree = true) (p : Word) (v : Byte) :
    s.poke p v =
      { s with mem := Memory.write (s.mask p) v s.mem, events := s.events ++ s.notifications (s.mask p) v } := by
  unfold State.poke
  rw [Bus.poke_free h]
  simp [State.withBus, State.bus, State.notifications, ownersAt, Function.comp_def]

/-- A `poke` changes the bus alone. -/
theorem State.poke_bus (s : State) (p : Word) (v : Byte) : s.poke p v = s.withBus (s.poke p v).bus := rfl

/-- A read after a `poke`: the byte at the same masked address, the old byte everywhere else (R60, R62). -/
theorem State.peek_poke (s : State) (p : Word) (v : Byte) (addr : Word) (h : Memory.wf s.mem = true)
    (hd : s.deviceFree = true) : (s.poke p v).peek addr = if s.mask addr = s.mask p then v else s.peek addr := by
  rw [State.poke_free hd]
  show Memory.read (Memory.write (s.mask p) v s.mem) (s.mask addr) = _
  by_cases hk : s.mask addr = s.mask p
  · rw [if_pos hk, hk, Memory.read_write_same _ _ h]
  · rw [if_neg hk, Memory.read_write_other _ hk]
    rfl

/-- A `poke` leaves every other masked address alone, in any state with no device on a window. -/
theorem State.peek_poke_other (s : State) (p : Word) (v : Byte) (addr : Word) (hd : s.deviceFree = true)
    (h : s.mask addr ≠ s.mask p) : (s.poke p v).peek addr = s.peek addr := by
  rw [State.poke_free hd]
  exact Memory.read_write_other _ h

/-- A `poke` keeps the canonical form, devices or not. -/
theorem State.wf_poke (s : State) (p : Word) (v : Byte) (h : Memory.wf s.mem = true) : Memory.wf (s.poke p v).mem = true :=
  Bus.poke_induction (P := fun b => Memory.wf b.mem = true) (fun _ _ _ _ hb => Memory.wf_write _ _ hb) (fun _ _ hb => hb)
    (fun _ _ hb => hb) (fun _ _ hb => hb) _ _ _ _ (s.mask_lt p) h

/-- A `poke` keeps every listed address inside the array, devices or not. -/
theorem State.below_poke (s : State) (p : Word) (v : Byte) (h : Memory.below s.memSize s.mem = true) :
    Memory.below s.memSize (s.poke p v).mem = true :=
  Bus.poke_induction (P := fun b => Memory.below s.memSize b.mem = true) (fun _ _ _ ha hb => Memory.below_write _ hb ha)
    (fun _ _ hb => hb) (fun _ _ hb => hb) (fun _ _ hb => hb) _ _ _ _ (s.mask_lt p) h

/-! ### What no operation of the engine changes -/

/-- What every operation of the engine keeps: the parameters, the encoder, the windows; a latch is never set where no window
belongs to a device; the memory stays canonical and inside the array. -/
structure Keeps (s t : State) : Prop where
  cfg : t.cfg = s.cfg
  asm : t.asm = s.asm
  windows : t.windows = s.windows
  nextHandle : t.nextHandle = s.nextHandle
  latches : s.deviceFree = true → ∀ k, t.latches.get k = true → s.latches.get k = true
  wf : Memory.wf s.mem = true → Memory.wf t.mem = true
  below : Memory.below s.memSize s.mem = true → Memory.below t.memSize t.mem = true

theorem Keeps.refl (s : State) : Keeps s s := ⟨rfl, rfl, rfl, rfl, fun _ _ h => h, fun h => h, fun h => h⟩

theorem Keeps.trans {s t u : State} (h : Keeps s t) (k : Keeps t u) : Keeps s u :=
  ⟨k.cfg.trans h.cfg, k.asm.trans h.asm, k.windows.trans h.windows, k.nextHandle.trans h.nextHandle,
    fun hd i hi => h.latches hd i (k.latches ((State.deviceFree_congr h.windows h.cfg).trans hd) i hi), fun hw => k.wf (h.wf hw), fun hb => k.below (h.below hb)⟩

/-- A change of fields that `Keeps` does not speak of. -/
theorem Keeps.of_eq {s t : State} (hc : t.cfg = s.cfg) (ha : t.asm = s.asm) (hw : t.windows = s.windows)
    (hn : t.nextHandle = s.nextHandle) (hl : t.latches = s.latches) (hm : t.mem = s.mem) : Keeps s t := by
  refine ⟨hc, ha, hw, hn, fun _ k h => hl ▸ h, fun h => hm ▸ h, fun h => ?_⟩
  rw [hm, State.memSize, hc]
  exact h

theorem Keeps.poke (s : State) (p : Word) (v : Byte) : Keeps s (s.poke p v) :=
  ⟨rfl, rfl, rfl, rfl, fun hd k h => by rw [State.poke_free hd] at h; exact h, s.wf_poke p v, s.below_poke p v⟩

theorem Keeps.setReg (s : State) (r : Reg) (v : Word) : Keeps s (s.setReg r v) := by
  apply Keeps.of_eq <;> simp

theorem Keeps.flags (s : State) (d : FlagUpdate) : Keeps s (s.flags d) := Keeps.of_eq rfl rfl rfl rfl rfl rfl

theorem Keeps.setPc (s : State) (v : Word) : Keeps s (s.setPc v) := Keeps.of_eq rfl rfl rfl rfl rfl rfl

/-- Fields that `Keeps` does not speak of may change after any change it speaks of. -/
theorem Keeps.then_eq {s t u : State} (h : Keeps s t) (hc : u.cfg = t.cfg) (ha : u.asm = t.asm)
    (hw : u.windows = t.windows) (hn : u.nextHandle = t.nextHandle) (hl : u.latches = t.latches) (hm : u.mem = t.mem) :
    Keeps s u := h.trans (Keeps.of_eq hc ha hw hn hl hm)

theorem Keeps.advance (s : State) (n : Nat) : Keeps s (s.advance n) := by
  induction n generalizing s with
  | zero => exact Keeps.refl s
  | succ n ih => exact Keeps.trans (t := s.setPc (s.pc + 1)) (Keeps.setPc s _) (ih _)

theorem Keeps.memWrite16 (s : State) (addr v : Word) : Keeps s (s.memWrite16 addr v) :=
  (Keeps.poke s _ _).trans (Keeps.poke _ _ _)

theorem Keeps.push8 (s : State) (sp : Stack) (v : Byte) : Keeps s (s.push8 sp v) :=
  (Keeps.setReg s _ _).trans (Keeps.poke _ _ _)

theorem Keeps.push16 (s : State) (sp : Stack) (v : Word) : Keeps s (s.push16 sp v) :=
  (Keeps.push8 s sp _).trans (Keeps.push8 _ sp _)

theorem Keeps.pull8 (s : State) (sp : Stack) : Keeps s (s.pull8 sp).2 := Keeps.setReg s _ _

theorem Keeps.pull16 (s : State) (sp : Stack) : Keeps s (s.pull16 sp).2 :=
  (Keeps.pull8 s sp).trans (Keeps.pull8 _ sp)

theorem Keeps.pushReg (s : State) (sp : Stack) (r : Reg) : Keeps s (s.pushReg sp r) := by
  cases r <;> first | exact Keeps.push8 s sp _ | exact Keeps.push16 s sp _

theorem Keeps.pullReg (s : State) (sp : Stack) (r : Reg) : Keeps s (s.pullReg sp r) := by
  have h8 : ∀ v, Keeps s ((s.pull8 sp).2.setReg r v) := fun v => (Keeps.pull8 s sp).trans (Keeps.setReg _ r v)
  have h16 : ∀ v, Keeps s ((s.pull16 sp).2.setReg r v) := fun v => (Keeps.pull16 s sp).trans (Keeps.setReg _ r v)
  cases r <;> first | exact h8 _ | exact h16 _

theorem Keeps.foldl {α : Type} (f : State → α → State) (h : ∀ s x, Keeps s (f s x)) (l : List α) (s : State) :
    Keeps s (l.foldl f s) := by
  induction l generalizing s with
  | nil => exact Keeps.refl s
  | cons x l ih => exact (h s x).trans (ih (f s x))

theorem Keeps.pushList (s : State) (sp : Stack) (pb : Byte) : Keeps s (s.pushList sp pb) :=
  Keeps.foldl _ (fun s r => Keeps.pushReg s sp r) _ s

theorem Keeps.pullList (s : State) (sp : Stack) (pb : Byte) : Keeps s (s.pullList sp pb) := by
  have h := Keeps.foldl (fun s r => s.pullReg sp r) (fun s r => Keeps.pullReg s sp r) (selectedRegs sp pb) s
  unfold State.pullList
  generalize (selectedRegs sp pb).foldl (fun s r => s.pullReg sp r) s = t at h
  simp only
  split
  · exact h.then_eq rfl rfl rfl rfl rfl rfl
  · exact h

theorem Keeps.pushFrame (s : State) (f : Stacking) : Keeps s (s.pushFrame f) := by
  cases f with
  | none => exact Keeps.refl s
  | pcAndCc =>
    show Keeps s (((s.flags { e := false }).pushReg .S .PC).pushReg .S .CC)
    exact ((Keeps.flags s _).trans (Keeps.pushReg _ _ _)).trans (Keeps.pushReg _ _ _)
  | entire => exact Keeps.trans (t := s.flags { e := true }) (Keeps.flags s _) (Keeps.pushList _ _ _)

theorem Keeps.enter (s : State) (frame : Stacking) (i f : Bool) (vector : Word) : Keeps s (s.enter frame i f vector) :=
  Keeps.trans (t := (s.pushFrame frame).setMasks i f) ((Keeps.pushFrame s frame).trans (Keeps.flags _ _)) (Keeps.setPc _ _)

/-- Clearing a latch sets none. -/
theorem Latches.get_set_false (l : Latches) (k j : IntKind) (h : (l.set k false).get j = true) : l.get j = true := by
  cases k <;> cases j <;> simp_all [Latches.set, Latches.get]

/-- A service clears exactly its own latch (R610, R612). -/
theorem Latches.get_set (l : Latches) (k j : IntKind) (v : Bool) : (l.set k v).get j = if j = k then v else l.get j := by
  cases k <;> cases j <;> simp [Latches.set, Latches.get]

/-- A latch cleared and the run state changed after any change. -/
theorem Keeps.served {s t : State} (h : Keeps s t) (k : IntKind) (r : RunState) (d : Byte) :
    Keeps s { t with dp := d, latches := t.latches.set k false, run := r } :=
  ⟨h.cfg, h.asm, h.windows, h.nextHandle, fun hd j hj => h.latches hd j (Latches.get_set_false _ _ _ hj), h.wf, h.below⟩

/-- The service written with one update: the entry, DP as `RESET_CLEARS_DP` says, the latch, the run state. -/
theorem State.service_eq (s : State) (k : IntKind) :
    s.service k =
      { s.enter (s.frameOf k) true k.setsF (k.vector s.cfg.vectors) with
        dp := if k = .reset ∧ s.cfg.resetClearsDp then 0
          else (s.enter (s.frameOf k) true k.setsF (k.vector s.cfg.vectors)).dp
        latches := (s.enter (s.frameOf k) true k.setsF (k.vector s.cfg.vectors)).latches.set k false
        run := .running } := by
  unfold State.service
  by_cases h : k = .reset ∧ s.cfg.resetClearsDp
  · simp only [h, and_self, if_true]
  · simp only [h, if_false]

theorem Keeps.service (s : State) (k : IntKind) : Keeps s (s.service k) := by
  rw [State.service_eq]
  exact (Keeps.enter s _ _ _ _).served _ _ _

theorem Keeps.checkInterrupts (s : State) : Keeps s s.checkInterrupts := by
  have h1 : Keeps s (if s.run = .syncing ∧ s.latches.any then { s with run := .running } else s) := by
    split
    · exact Keeps.of_eq rfl rfl rfl rfl rfl rfl
    · exact Keeps.refl s
  unfold State.checkInterrupts
  generalize (if s.run = .syncing ∧ s.latches.any then { s with run := RunState.running } else s) = t at h1
  simp only
  cases t.accepted with
  | none => exact h1
  | some k => exact h1.trans (Keeps.service t k)

theorem Keeps.swi (s : State) (masks : Bool) (vector : Word) : Keeps s (s.swi masks vector) := by
  have h := Keeps.enter s .entire masks masks vector
  unfold State.swi
  generalize s.enter .entire masks masks vector = t at h
  exact h.then_eq rfl rfl rfl rfl rfl rfl

theorem Keeps.rti (s : State) : Keeps s s.rti := by
  have h1 := Keeps.pullReg s .S .CC
  unfold State.rti
  generalize s.pullReg .S .CC = t at h1
  simp only
  have h2 : Keeps s (if t.flag .E then [Reg.A, .B, .DP, .X, .Y, .U].foldl (fun s r => s.pullReg .S r) t else t) := by
    split
    · exact h1.trans (Keeps.foldl _ (fun s r => Keeps.pullReg s .S r) _ t)
    · exact h1
  generalize (if t.flag .E then [Reg.A, .B, .DP, .X, .Y, .U].foldl (fun s r => s.pullReg .S r) t else t) = u at h2
  exact (h2.trans (Keeps.pullReg u .S .PC)).then_eq rfl rfl rfl rfl rfl rfl

/-- Everything `raiseIllegal` can do: stop by the driver's policy, or go on with the event and nothing else (R600). -/
theorem State.raiseIllegal_cases (s : State) :
    (policyHalts s.cfg.illegalPolicy (s.illegalCount + 1) = true ∧
      s.raiseIllegal = .fault (.illegalOpcode s.op s.page)) ∨
    (policyHalts s.cfg.illegalPolicy (s.illegalCount + 1) = false ∧
      s.raiseIllegal = .next
        { s with events := s.events ++ [.illegalOpcode s.op s.page], page := .p0, illegalCount := s.illegalCount + 1 }) := by
  unfold State.raiseIllegal
  cases h : policyHalts s.cfg.illegalPolicy (s.illegalCount + 1)
  · exact .inr ⟨rfl, rfl⟩
  · exact .inl ⟨rfl, rfl⟩

theorem Keeps.raiseIllegal {s t : State} (h : s.raiseIllegal = .next t) : Keeps s t := by
  rcases s.raiseIllegal_cases with ⟨-, he⟩ | ⟨-, he⟩
  · rw [he] at h; cases h
  · rw [he] at h; cases h; exact Keeps.of_eq rfl rfl rfl rfl rfl rfl

theorem Keeps.drawn (s : State) : Keeps s s.drawn := by
  unfold State.drawn
  split <;> exact Keeps.of_eq rfl rfl rfl rfl rfl rfl

end Sys2Proof.Machine
end

