-- ==== Sys2Proof/Laws/Entry.lean ====
section
/-! SUPPORT. Everything a push, an entry, a service and the interrupt check can change (R66, R474, R606, R610, R612). -/

namespace Sys2Proof.Machine

/-- A push changes the two stack pointers and the bus (memory, events and, through a device, latches) at most. -/
def State.Pushed (s t : State) : Prop := 
  t = { s with
    s := t.s, u := t.u, mem := t.mem, events := t.events, latches := t.latches, deviceState := t.deviceState }

theorem State.Pushed.refl (s : State) : s.Pushed s := rfl

theorem State.Pushed.trans {s t v : State} (h : s.Pushed t) (k : t.Pushed v) : s.Pushed v := by
  unfold State.Pushed at h k ⊢
  rw [k, h]

theorem State.Pushed.push8 (s : State) (sp : Stack) (v : Byte) : s.Pushed (s.push8 sp v) := by
  cases sp <;> rfl

theorem State.Pushed.push16 (s : State) (sp : Stack) (v : Word) : s.Pushed (s.push16 sp v) :=
  (State.Pushed.push8 s sp _).trans (State.Pushed.push8 _ sp _)

theorem State.Pushed.pushReg (s : State) (sp : Stack) (r : Reg) : s.Pushed (s.pushReg sp r) := by
  cases r <;> first | exact State.Pushed.push8 s sp _ | exact State.Pushed.push16 s sp _

theorem State.Pushed.foldl (sp : Stack) (l : List Reg) (s : State) :
    s.Pushed (l.foldl (fun s r => s.pushReg sp r) s) := by
  induction l generalizing s with
  | nil => exact State.Pushed.refl s
  | cons r l ih => exact (State.Pushed.pushReg s sp r).trans (ih _)

theorem State.Pushed.pushList (s : State) (sp : Stack) (pb : Byte) : s.Pushed (s.pushList sp pb) :=
  State.Pushed.foldl sp _ s

/-- An entry changes S, U (never in fact), the bus, CC and PC at most. -/
def State.Entered (s t : State) : Prop :=
  t = { s with
    s := t.s, u := t.u, mem := t.mem, events := t.events, latches := t.latches, deviceState := t.deviceState, cc := t.cc
    pc := t.pc }

theorem State.Entered.trans {s t v : State} (h : s.Entered t) (k : t.Entered v) : s.Entered v := by
  unfold State.Entered at h k ⊢
  rw [k, h]

theorem State.Pushed.entered {s t : State} (h : s.Pushed t) : s.Entered t := by
  unfold State.Pushed at h
  unfold State.Entered
  rw [h]

theorem State.Entered.flags (s : State) (d : FlagUpdate) : s.Entered (s.flags d) := rfl

theorem State.Entered.setPc (s : State) (v : Word) : s.Entered (s.setPc v) := rfl

theorem State.Entered.pushFrame (s : State) (f : Stacking) : s.Entered (s.pushFrame f) := by
  cases f with
  | none => exact (State.Pushed.refl s).entered
  | pcAndCc =>
    show s.Entered (((s.flags { e := false }).pushReg .S .PC).pushReg .S .CC)
    exact (State.Entered.flags s _).trans ((State.Pushed.pushReg _ _ _).trans (State.Pushed.pushReg _ _ _)).entered
  | entire =>
    show s.Entered ((s.flags { e := true }).pushList .S 0xFF)
    exact (State.Entered.flags s _).trans (State.Pushed.pushList _ _ _).entered

/-- Everything an entry can change (R610, R614). -/
theorem State.Entered.enter (s : State) (frame : Stacking) (i f : Bool) (vector : Word) :
    s.Entered (s.enter frame i f vector) := by
  unfold State.enter State.setMasks
  exact ((State.Entered.pushFrame s frame).trans (State.Entered.flags _ _)).trans (State.Entered.setPc _ _)

/-- Everything a service can change: an entry, DP (reset only), the latches and the run state (R610, R612). -/
theorem State.service_page (s : State) (k : IntKind) : (s.service k).page = s.page := by
  rw [State.service_eq]
  have h := State.Entered.enter s (s.frameOf k) true k.setsF (k.vector s.cfg.vectors)
  unfold State.Entered at h
  rw [h]

/-- The interrupt check: nothing, or one service (R606, R607). -/
theorem State.checkInterrupts_cases (s : State) :
    (∃ k, s.checkInterrupts =
      (if s.run = .syncing ∧ s.latches.any then { s with run := .running } else s).service k ∧
      (if s.run = .syncing ∧ s.latches.any then { s with run := RunState.running } else s).accepted = some k) ∨
    (s.checkInterrupts = (if s.run = .syncing ∧ s.latches.any then { s with run := .running } else s) ∧
      (if s.run = .syncing ∧ s.latches.any then { s with run := RunState.running } else s).accepted = none) := by
  unfold State.checkInterrupts
  generalize (if s.run = .syncing ∧ s.latches.any then { s with run := RunState.running } else s) = t
  simp only
  cases h : t.accepted with
  | none => exact .inr ⟨rfl, rfl⟩
  | some k => exact .inl ⟨k, rfl, rfl⟩

/-- What is accepted depends on the latches and the two masks alone (R606). -/
theorem State.accepted_congr {s t : State} (hl : t.latches = s.latches) (hc : t.cc = s.cc) : t.accepted = s.accepted := by
  unfold State.accepted State.flag
  rw [hl, hc]

theorem State.checkInterrupts_page (s : State) : s.checkInterrupts.page = s.page := by
  rcases s.checkInterrupts_cases with ⟨k, h, -⟩ | ⟨h, -⟩
  · rw [h, State.service_page]; split <;> rfl
  · rw [h]; split <;> rfl

end Sys2Proof.Machine
end

