-- ==== Sys2Proof/Laws/Operands.lean ====
section
/-! SUPPORT. What resolving an operand can do, and when it succeeds (R156, R260, R119). -/

namespace Sys2Proof.Machine

/-- Resolving an address changes EA and the four base registers at most. -/
def State.Addressed (s t : State) : Prop := t = { s with ea := t.ea, x := t.x, y := t.y, u := t.u, s := t.s }

theorem State.Addressed.setReg (s : State) (r : IdxReg) (v e : Word) :
    s.Addressed { (s.setReg (baseReg r) v) with ea := e } := by
  cases r <;> rfl

theorem State.formEA_addressed {s t : State} {r : IdxReg} {m : IdxMode} (h : s.formEA (baseReg r) m = some t) :
    s.Addressed t := by
  cases m <;> simp only [State.formEA, Option.some.injEq, reduceCtorEq] at h <;> subst h <;>
    first | rfl | exact State.Addressed.setReg s r _ _

theorem State.indx_addressed {s t : State} {ix : Index} (h : s.indx ix = some t) : s.Addressed t := by
  cases ix with
  | off5 r n => simp only [State.indx, Option.some.injEq] at h; subst h; rfl
  | mode r i m =>
    simp only [State.indx, Option.map_eq_some_iff] at h
    obtain ⟨u, hu, rfl⟩ := h
    have hu := State.formEA_addressed hu
    unfold State.Addressed at hu ⊢
    split
    · rw [hu]
    · exact hu

/-- Everything `ResolveEA` can do (R260). -/
theorem State.resolveEA_addressed {s t : State} {m : MemOp} (h : s.resolveEA m = some t) : s.Addressed t := by
  cases m with
  | dir lo => simp only [State.resolveEA, Option.some.injEq] at h; subst h; rfl
  | ext a => simp only [State.resolveEA, Option.some.injEq] at h; subst h; rfl
  | idx ix => exact State.indx_addressed h

/-- Addressing touches no memory. -/
theorem State.Addressed.mem {s t : State} (h : s.Addressed t) : t.mem = s.mem := by rw [h]

theorem State.Addressed.cfg {s t : State} (h : s.Addressed t) : t.cfg = s.cfg := by rw [h]

theorem State.Addressed.cc {s t : State} (h : s.Addressed t) : t.cc = s.cc := by rw [h]

theorem State.Addressed.pc {s t : State} (h : s.Addressed t) : t.pc = s.pc := by rw [h]

theorem State.Addressed.keeps {s t : State} (h : s.Addressed t) : Keeps s t := by
  rw [h]; exact Keeps.of_eq rfl rfl rfl rfl rfl rfl

/-- A sub-mode resolves exactly when its code is defined (R119). -/
theorem State.formEA_isSome (s : State) (r : Reg) (m : IdxMode) : (s.formEA r m).isSome = m.wf := by
  cases m <;> rfl

theorem State.indx_isSome (s : State) (ix : Index) : (s.indx ix).isSome = ix.wf := by
  cases ix with
  | off5 r n => rfl
  | mode r i m => simp [State.indx, Index.wf, State.formEA_isSome]

/-- An address resolves exactly when the operand is well formed. -/
theorem State.resolveEA_isSome (s : State) (m : MemOp) : (s.resolveEA m).isSome = m.wf := by
  cases m with
  | dir lo => rfl
  | ext a => rfl
  | idx ix => exact State.indx_isSome s ix

theorem State.operand8r1_isSome (s : State) (src : Src8) : (s.operand8r1 src).isSome = src.wf := by
  cases src <;> simp [State.operand8r1, Src8.wf, State.resolveEA_isSome]

theorem State.operand8r2_isSome (s : State) (src : Src8) : (s.operand8r2 src).isSome = src.wf := by
  cases src <;> simp [State.operand8r2, Src8.wf, State.resolveEA_isSome]

theorem State.operand16r1_isSome (s : State) (src : Src16) : (s.operand16r1 src).isSome = src.wf := by
  cases src <;> simp [State.operand16r1, Src16.wf, State.resolveEA_isSome]

theorem State.operand16r2_isSome (s : State) (src : Src16) : (s.operand16r2 src).isSome = src.wf := by
  cases src <;> simp [State.operand16r2, Src16.wf, State.resolveEA_isSome]

theorem Keeps.ofOption {s t : State} {o : Option State} {f : State → State} (h : o.map f = some t)
    (ho : ∀ v, o = some v → Keeps s v) (hf : ∀ v, Keeps v (f v)) : Keeps s t := by
  obtain ⟨v, hv, rfl⟩ := Option.map_eq_some_iff.mp h
  exact (ho v hv).trans (hf v)

theorem Keeps.resolveEA {s t : State} {m : MemOp} (h : s.resolveEA m = some t) : Keeps s t :=
  (State.resolveEA_addressed h).keeps

theorem Keeps.indx {s t : State} {ix : Index} (h : s.indx ix = some t) : Keeps s t := (State.indx_addressed h).keeps

theorem Keeps.operand8r1 {s t : State} {src : Src8} (h : s.operand8r1 src = some t) : Keeps s t := by
  cases src with
  | imm v => simp only [State.operand8r1, Option.some.injEq] at h; subst h; exact Keeps.of_eq rfl rfl rfl rfl rfl rfl
  | mem m => exact Keeps.ofOption (o := s.resolveEA m) h (fun v => Keeps.resolveEA) fun v => Keeps.of_eq rfl rfl rfl rfl rfl rfl

theorem Keeps.operand8r2 {s t : State} {src : Src8} (h : s.operand8r2 src = some t) : Keeps s t := by
  cases src with
  | imm v => simp only [State.operand8r2, Option.some.injEq] at h; subst h; exact Keeps.of_eq rfl rfl rfl rfl rfl rfl
  | mem m => exact Keeps.ofOption (o := s.resolveEA m) h (fun v => Keeps.resolveEA) fun v => Keeps.of_eq rfl rfl rfl rfl rfl rfl

theorem Keeps.operand16r1 {s t : State} {src : Src16} (h : s.operand16r1 src = some t) : Keeps s t := by
  cases src with
  | imm v => simp only [State.operand16r1, Option.some.injEq] at h; subst h; exact Keeps.of_eq rfl rfl rfl rfl rfl rfl
  | mem m => exact Keeps.ofOption (o := s.resolveEA m) h (fun v => Keeps.resolveEA) fun v => Keeps.of_eq rfl rfl rfl rfl rfl rfl

theorem Keeps.operand16r2 {s t : State} {src : Src16} (h : s.operand16r2 src = some t) : Keeps s t := by
  cases src with
  | imm v => simp only [State.operand16r2, Option.some.injEq] at h; subst h; exact Keeps.of_eq rfl rfl rfl rfl rfl rfl
  | mem m => exact Keeps.ofOption (o := s.resolveEA m) h (fun v => Keeps.resolveEA) fun v => Keeps.of_eq rfl rfl rfl rfl rfl rfl

/-- Everything `orIllegal` can do: the rest of the program after the operand, or `IllegalOpcode` (R119, R600). -/
theorem State.orIllegal_next {s t : State} {o : Option State} {k : State → State} (h : s.orIllegal o k = .next t) :
    (∃ u, o = some u ∧ t = k u) ∨ (o = none ∧ s.raiseIllegal = .next t) := by
  cases o with
  | some u => simp only [State.orIllegal, Host.Outcome.next.injEq] at h; exact .inl ⟨u, rfl, h.symm⟩
  | none => exact .inr ⟨rfl, h⟩

/-- A resolved operand lets the program run. -/
theorem State.orIllegal_some {s u : State} {o : Option State} {k : State → State} (h : o = some u) :
    s.orIllegal o k = .next (k u) := by
  rw [h]; rfl

theorem Keeps.orIllegal {s t : State} {o : Option State} {k : State → State} (h : s.orIllegal o k = .next t)
    (ho : ∀ u, o = some u → Keeps s u) (hk : ∀ u, Keeps u (k u)) : Keeps s t := by
  rcases State.orIllegal_next h with ⟨u, hu, rfl⟩ | ⟨-, hr⟩
  · exact (ho u hu).trans (hk u)
  · exact Keeps.raiseIllegal hr

end Sys2Proof.Machine
end

