-- ==== Sys2Proof/Laws/Exec.lean ====
section
/-! SUPPORT. No instruction changes what `Keeps` names. -/

namespace Sys2Proof.Machine

/-- An operation of the engine that keeps what `Keeps` names. -/
abbrev KeepsOp (f : State → State) : Prop := ∀ s, Keeps s (f s)

theorem Keeps.same {s t : State} (hc : t.cfg = s.cfg := by rfl) (ha : t.asm = s.asm := by rfl)
    (hw : t.windows = s.windows := by rfl) (hn : t.nextHandle = s.nextHandle := by rfl)
    (hl : t.latches = s.latches := by rfl) (hm : t.mem = s.mem := by rfl) : Keeps s t := Keeps.of_eq hc ha hw hn hl hm

theorem Keeps.st1 (s : State) (r : Reg) : Keeps s (s.st1 r) := Keeps.setReg s r _

theorem Keeps.stor8 (s : State) : Keeps s s.stor8 := Keeps.poke s _ _

theorem Keeps.stor16 (s : State) : Keeps s s.stor16 := Keeps.memWrite16 s _ _

theorem Keeps.put8 (s : State) (r : Alu 8) : Keeps s (s.put8 r) := Keeps.same

theorem Keeps.put16 (s : State) (r : Alu 16) : Keeps s (s.put16 r) := Keeps.same

theorem keeps_add8 : KeepsOp State.add8 := fun s => Keeps.put8 s _
theorem keeps_adc8 : KeepsOp State.adc8 := fun s => Keeps.put8 s _
theorem keeps_add16 : KeepsOp State.add16 := fun s => Keeps.put16 s _
theorem keeps_sub8 : KeepsOp State.sub8 := fun s => (Keeps.put8 s _).trans (Keeps.drawn _)
theorem keeps_sbc8 : KeepsOp State.sbc8 := fun s => (Keeps.put8 s _).trans (Keeps.drawn _)
theorem keeps_sub16 : KeepsOp State.sub16 := fun s => (Keeps.put16 s _).trans (Keeps.drawn _)
theorem keeps_neg8 : KeepsOp State.neg8 := fun s => (Keeps.put8 s _).trans (Keeps.drawn _)
theorem keeps_and8 : KeepsOp State.and8 := fun s => Keeps.put8 s _
theorem keeps_or8 : KeepsOp State.or8 := fun s => Keeps.put8 s _
theorem keeps_eor8 : KeepsOp State.eor8 := fun s => Keeps.put8 s _
theorem keeps_com8 : KeepsOp State.com8 := fun s => Keeps.put8 s _
theorem keeps_inc8 : KeepsOp State.inc8 := fun s => Keeps.put8 s _
theorem keeps_dec8 : KeepsOp State.dec8 := fun s => Keeps.put8 s _
theorem keeps_tst8 : KeepsOp State.tst8 := fun s => Keeps.put8 s _
theorem keeps_tst16 : KeepsOp State.tst16 := fun s => Keeps.put16 s _
theorem keeps_clr8 : KeepsOp State.clr8 := fun s => Keeps.put8 s _
theorem keeps_lsr8 : KeepsOp State.lsr8 := fun s => (Keeps.put8 s _).trans (Keeps.drawn _)
theorem keeps_ror8 : KeepsOp State.ror8 := fun s => Keeps.put8 s _
theorem keeps_asr8 : KeepsOp State.asr8 := fun s => (Keeps.put8 s _).trans (Keeps.drawn _)
theorem keeps_lsl8 : KeepsOp State.lsl8 := fun s => (Keeps.put8 s _).trans (Keeps.drawn _)
theorem keeps_rol8 : KeepsOp State.rol8 := fun s => Keeps.put8 s _

theorem Keeps.load8 {r : Reg} {src : Src8} {s t : State} (h : load8 r src s = .next t) : Keeps s t :=
  Keeps.orIllegal h (fun _ => Keeps.operand8r1) fun u => (Keeps.st1 u r).trans (keeps_tst8 _)

theorem Keeps.load16 {r : Reg} {src : Src16} {s t : State} (h : load16 r src s = .next t) : Keeps s t :=
  Keeps.orIllegal h (fun _ => Keeps.operand16r1) fun u => (Keeps.st1 u r).trans (keeps_tst16 _)

theorem Keeps.ld1 (s : State) (r : Reg) : Keeps s (s.ld1 r) := Keeps.same

theorem Keeps.store8 {r : Reg} {m : MemOp} {s t : State} (h : store8 r m s = .next t) : Keeps s t :=
  Keeps.orIllegal h (fun _ => Keeps.resolveEA) fun u => ((Keeps.ld1 u r).trans (keeps_tst8 _)).trans (Keeps.stor8 _)

theorem Keeps.store16 {r : Reg} {m : MemOp} {s t : State} (h : store16 r m s = .next t) : Keeps s t :=
  Keeps.orIllegal h (fun _ => Keeps.resolveEA) fun u => ((Keeps.ld1 u r).trans (keeps_tst16 _)).trans (Keeps.stor16 _)

theorem Keeps.leaZ {r : Reg} {ix : Index} {s t : State} (h : leaZ r ix s = .next t) : Keeps s t :=
  Keeps.orIllegal h (fun _ => Keeps.indx) fun u => (Keeps.setReg u r _).trans (Keeps.flags _ _)

theorem Keeps.lea {r : Reg} {ix : Index} {s t : State} (h : lea r ix s = .next t) : Keeps s t :=
  Keeps.orIllegal h (fun _ => Keeps.indx) fun u => Keeps.setReg u r _

theorem Keeps.binary8 {op : State → State} (ho : KeepsOp op) {r : Reg} {src : Src8} {s t : State}
    (h : binary8 op r src s = .next t) : Keeps s t :=
  Keeps.orIllegal h (fun _ => Keeps.operand8r2) fun u => ((Keeps.ld1 u r).trans (ho _)).trans (Keeps.st1 _ r)

theorem Keeps.test8 {op : State → State} (ho : KeepsOp op) {r : Reg} {src : Src8} {s t : State}
    (h : test8 op r src s = .next t) : Keeps s t :=
  Keeps.orIllegal h (fun _ => Keeps.operand8r2) fun u => (Keeps.ld1 u r).trans (ho _)

theorem Keeps.binary16 {op : State → State} (ho : KeepsOp op) {r : Reg} {src : Src16} {s t : State}
    (h : binary16 op r src s = .next t) : Keeps s t :=
  Keeps.orIllegal h (fun _ => Keeps.operand16r2) fun u => ((Keeps.ld1 u r).trans (ho _)).trans (Keeps.st1 _ r)

theorem Keeps.test16 {op : State → State} (ho : KeepsOp op) {r : Reg} {src : Src16} {s t : State}
    (h : test16 op r src s = .next t) : Keeps s t :=
  Keeps.orIllegal h (fun _ => Keeps.operand16r2) fun u => (Keeps.ld1 u r).trans (ho _)

theorem Keeps.test16Old {op : State → State} (ho : KeepsOp op) {r : Reg} {src : Src16} {s t : State}
    (h : test16Old op r src s = .next t) : Keeps s t :=
  Keeps.orIllegal h (fun _ => Keeps.operand16r2) fun u => (Keeps.same (t := { u with r1 := s.reg r })).trans (ho _)

theorem Keeps.cmpx {src : Src16} {s t : State} (h : execCmpx src s = .next t) : Keeps s t := by
  unfold execCmpx at h
  split at h
  · exact Keeps.test16Old keeps_sub16 h
  · exact Keeps.test16 keeps_sub16 h

theorem Keeps.ofNext {s t u : State} (hk : Keeps s u) (h : (Host.Outcome.next u : Outcome) = .next t) : Keeps s t := by
  cases h; exact hk

theorem Keeps.unaryReg {op : State → State} (ho : KeepsOp op) {r : Reg} {s t : State}
    (h : unaryReg op r s = .next t) : Keeps s t :=
  Keeps.ofNext (((Keeps.ld1 s r).trans (ho _)).trans (Keeps.st1 _ r)) h

theorem Keeps.readModifyWrite {op : State → State} (ho : KeepsOp op) {m : MemOp} {s t : State}
    (h : readModifyWrite op m s = .next t) : Keeps s t :=
  Keeps.orIllegal h (fun _ => Keeps.resolveEA) fun u =>
    (Keeps.trans (t := u.ftch8r1) Keeps.same (ho _)).trans (Keeps.stor8 _)

theorem Keeps.branchIf (s : State) (c : ChkCond) : Keeps s (s.branchIf c) := by
  unfold State.branchIf State.qf
  split
  · exact Keeps.same
  · exact Keeps.same

theorem Keeps.branchIfNot (s : State) (c : ChkCond) : Keeps s (s.branchIfNot c) := by
  unfold State.branchIfNot State.qt
  split
  · exact Keeps.same
  · exact Keeps.same

theorem Keeps.call (s : State) : Keeps s s.call := by
  have h := Keeps.push16 s .S s.pc
  unfold State.call
  generalize s.push16 .S s.pc = t at h
  exact h.then_eq rfl rfl rfl rfl rfl rfl

theorem Keeps.tfr {p q : PairReg} {s t : State} (h : execTfr p q s = .next t) : Keeps s t := by
  unfold execTfr at h
  split at h
  · exact Keeps.ofNext ((Keeps.ld1 s _).trans (Keeps.st1 _ _)) h
  · exact Keeps.raiseIllegal h

theorem Keeps.exg {p q : PairReg} {s t : State} (h : execExg p q s = .next t) : Keeps s t := by
  unfold execExg at h
  split at h
  · rename_i p q _ _
    have h1 : Keeps s ((s.ld1 p).ld2 q) := Keeps.same
    exact Keeps.ofNext ((h1.trans (Keeps.setReg _ _ _)).trans (Keeps.st1 _ _)) h
  · exact Keeps.raiseIllegal h

theorem Keeps.mul (s : State) : Keeps s s.mul := Keeps.same

theorem Keeps.abx (s : State) : Keeps s s.abx := Keeps.same

theorem Keeps.daa (s : State) : Keeps s s.daa :=
  Keeps.trans (t := ((s.ld1 .A).put8 (aluDaa s.a (s.flag .H) (s.flag .C) s.undefinedFlag)).st1 .A)
    Keeps.same (Keeps.drawn _)

theorem Keeps.cwai {mask : Byte} {s t : State} (h : execCwai mask s = .next t) : Keeps s t := by
  unfold execCwai at h
  simp only [Host.Outcome.next.injEq] at h
  subst h
  have h1 : Keeps s { s with cc := s.cc &&& mask } := Keeps.same
  have h2 : Keeps s (if s.cfg.cwaiPrestack then State.pushFrame { s with cc := s.cc &&& mask } .entire
      else { s with cc := s.cc &&& mask }) := by
    split
    · exact h1.trans (Keeps.pushFrame _ _)
    · exact h1
  exact h2.then_eq rfl rfl rfl rfl rfl rfl

/-- No instruction changes the parameters, the encoder or the windows, sets a latch, or spoils the memory. -/
theorem exec_keeps {i : Instr} {s t : State} (h : exec i s = .next t) : Keeps s t := by
  cases i with
  | lda src | ldb src => exact Keeps.load8 h
  | ldd src | ldx src | ldy src | ldu src | lds src => exact Keeps.load16 h
  | sta m | stb m => exact Keeps.store8 h
  | std m | stx m | sty m | stu m | sts m => exact Keeps.store16 h
  | leax ix | leay ix => exact Keeps.leaZ h
  | leas ix | leau ix => exact Keeps.lea h
  | tfr p q => exact Keeps.tfr h
  | exg p q => exact Keeps.exg h
  | adda src | addb src => exact Keeps.binary8 keeps_add8 h
  | adca src | adcb src => exact Keeps.binary8 keeps_adc8 h
  | addd src => exact Keeps.binary16 keeps_add16 h
  | suba src | subb src => exact Keeps.binary8 keeps_sub8 h
  | sbca src | sbcb src => exact Keeps.binary8 keeps_sbc8 h
  | subd src => exact Keeps.binary16 keeps_sub16 h
  | cmpa src | cmpb src => exact Keeps.test8 keeps_sub8 h
  | cmpd src | cmpy src | cmpu src | cmps src => exact Keeps.test16 keeps_sub16 h
  | cmpx src => exact Keeps.cmpx h
  | neg m => exact Keeps.readModifyWrite keeps_neg8 h
  | nega | negb => exact Keeps.unaryReg keeps_neg8 h
  | inc m => exact Keeps.readModifyWrite keeps_inc8 h
  | inca | incb => exact Keeps.unaryReg keeps_inc8 h
  | dec m => exact Keeps.readModifyWrite keeps_dec8 h
  | deca | decb => exact Keeps.unaryReg keeps_dec8 h
  | tst m => exact Keeps.orIllegal h (fun _ => Keeps.resolveEA) fun u => Keeps.trans (t := u.ftch8r1) Keeps.same (keeps_tst8 _)
  | tsta | tstb => exact Keeps.ofNext ((Keeps.ld1 s _).trans (keeps_tst8 _)) h
  | clr m => exact Keeps.orIllegal h (fun _ => Keeps.resolveEA) fun u => (keeps_clr8 u).trans (Keeps.stor8 _)
  | clra | clrb => exact Keeps.ofNext ((keeps_clr8 s).trans (Keeps.st1 _ _)) h
  | mul => exact Keeps.ofNext (Keeps.mul s) h
  | daa => exact Keeps.ofNext (Keeps.daa s) h
  | sex => exact Keeps.ofNext ((Keeps.put16 s _).trans (Keeps.st1 _ _)) h
  | abx => exact Keeps.ofNext (Keeps.abx s) h
  | anda src | andb src => exact Keeps.binary8 keeps_and8 h
  | ora src | orb src => exact Keeps.binary8 keeps_or8 h
  | eora src | eorb src => exact Keeps.binary8 keeps_eor8 h
  | bita src | bitb src => exact Keeps.test8 keeps_and8 h
  | com m => exact Keeps.readModifyWrite keeps_com8 h
  | coma | comb => exact Keeps.unaryReg keeps_com8 h
  | lsr m => exact Keeps.readModifyWrite keeps_lsr8 h
  | lsra | lsrb => exact Keeps.unaryReg keeps_lsr8 h
  | ror m => exact Keeps.readModifyWrite keeps_ror8 h
  | rora | rorb => exact Keeps.unaryReg keeps_ror8 h
  | asr m => exact Keeps.readModifyWrite keeps_asr8 h
  | asra | asrb => exact Keeps.unaryReg keeps_asr8 h
  | lsl m => exact Keeps.readModifyWrite keeps_lsl8 h
  | lsla | lslb => exact Keeps.unaryReg keeps_lsl8 h
  | rol m => exact Keeps.readModifyWrite keeps_rol8 h
  | rola | rolb => exact Keeps.unaryReg keeps_rol8 h
  | andcc mask | orcc mask => exact Keeps.ofNext Keeps.same h
  | bra d | brn d | lbra d | lbrn d => exact Keeps.ofNext Keeps.same h
  | bhi d | bcc d | bne d | bvc d | bpl d | bge d | bgt d =>
    exact Keeps.ofNext (Keeps.trans (t := s.rel8 d) Keeps.same (Keeps.branchIfNot _ _)) h
  | bls d | bcs d | beq d | bvs d | bmi d | blt d | ble d =>
    exact Keeps.ofNext (Keeps.trans (t := s.rel8 d) Keeps.same (Keeps.branchIf _ _)) h
  | lbhi d | lbcc d | lbne d | lbvc d | lbpl d | lbge d | lbgt d =>
    exact Keeps.ofNext (Keeps.trans (t := s.rel16 d) Keeps.same (Keeps.branchIfNot _ _)) h
  | lbls d | lbcs d | lbeq d | lbvs d | lbmi d | lblt d | lble d =>
    exact Keeps.ofNext (Keeps.trans (t := s.rel16 d) Keeps.same (Keeps.branchIf _ _)) h
  | bsr d => exact Keeps.ofNext (Keeps.trans (t := s.rel8 d) Keeps.same (Keeps.call _)) h
  | lbsr d => exact Keeps.ofNext (Keeps.trans (t := s.rel16 d) Keeps.same (Keeps.call _)) h
  | jsr m => exact Keeps.orIllegal h (fun _ => Keeps.resolveEA) fun u => Keeps.call u
  | rts =>
    exact Keeps.ofNext (u := { s.pullReg .S .PC with ntck := true })
      ((Keeps.pullReg s .S .PC).then_eq rfl rfl rfl rfl rfl rfl) h
  | jmp m => exact Keeps.orIllegal h (fun _ => Keeps.resolveEA) fun u => Keeps.same
  | pshs l | pshu l => exact Keeps.ofNext (Keeps.pushList s _ l) h
  | puls l | pulu l => exact Keeps.ofNext (Keeps.pullList s _ l) h
  | swi | swi2 | swi3 => exact Keeps.ofNext (Keeps.swi s _ _) h
  | rti => exact Keeps.ofNext (Keeps.rti s) h
  | cwai mask => exact Keeps.cwai h
  | sync | nop | prefix10 | prefix11 => exact Keeps.ofNext Keeps.same h

end Sys2Proof.Machine
end

