-- ==== Sys2Proof/Laws/Microcode.lean ====
section
/-! SUPPORT. What a microcode program can do: nothing that `Keeps` names, and at most one `IllegalOpcode` event. -/

namespace Sys2Proof.Machine

/-- What one token can do: a state to go on in, or the end of the program, and either keeps what `Keeps` names. -/
def TokenKeeps (s : State) (r : State ⊕ Outcome) : Prop :=
  (∀ u, r = .inl u → Keeps s u) ∧ (∀ t, r = .inr (.next t) → Keeps s t)

theorem TokenKeeps.go {s u : State} (h : Keeps s u) : TokenKeeps s (.inl u) :=
  ⟨fun _ e => Sum.inl.inj e ▸ h, fun _ e => (Sum.inl_ne_inr e).elim⟩

theorem TokenKeeps.stop {s : State} {o : Outcome} (h : ∀ t, o = .next t → Keeps s t) : TokenKeeps s (.inr o) :=
  ⟨fun _ e => (Sum.inr_ne_inl e).elim, fun t e => h t (Sum.inr.inj e)⟩

theorem Keeps.setScratch (s : State) (d : Scratch) (v : Word) : Keeps s (s.setScratch d v) := by
  cases d <;> exact Keeps.same

theorem Keeps.alu (s : State) (op : AluOp) : Keeps s (s.alu op) := by
  cases op
  exacts [keeps_add8 s, keeps_adc8 s, keeps_add16 s, keeps_sub8 s, keeps_sbc8 s, keeps_sub16 s, keeps_neg8 s, keeps_and8 s,
    keeps_or8 s, keeps_eor8 s, keeps_com8 s, keeps_inc8 s, keeps_dec8 s, keeps_tst8 s, keeps_tst16 s, keeps_clr8 s,
    keeps_lsr8 s, keeps_ror8 s, keeps_asr8 s, keeps_lsl8 s, keeps_rol8 s, Keeps.mul s, Keeps.abx s, Keeps.daa s]

theorem Keeps.swiToken (s : State) (k : SwiKind) : Keeps s (s.swiToken k) := by
  cases k <;> exact Keeps.swi s _ _

theorem TokenKeeps.raise {s u : State} (h : Keeps s u) : TokenKeeps s (.inr u.raiseIllegal) :=
  TokenKeeps.stop fun _ e => h.trans (Keeps.raiseIllegal e)

theorem TokenKeeps.fetchIndx (s : State) : TokenKeeps s s.fetchIndx := by
  unfold State.fetchIndx
  split
  · exact TokenKeeps.raise (Keeps.refl s)
  · rename_i ix n _
    split
    · rename_i u hu
      exact TokenKeeps.go ((Keeps.advance s n).trans (State.indx_addressed hu).keeps)
    · exact TokenKeeps.raise (Keeps.advance s n)

theorem TokenKeeps.fetchRgop (s : State) (x : Bool) : TokenKeeps s (s.fetchRgop x) := by
  unfold State.fetchRgop State.fetch8
  simp only
  split
  · refine TokenKeeps.go ((Keeps.advance s 1).trans ?_)
    split
    · exact (Keeps.trans (t := ((s.advance 1).ld1 _).ld2 _) Keeps.same (Keeps.setReg _ _ _)).trans (Keeps.setReg _ _ _)
    · exact Keeps.trans (t := (s.advance 1).ld1 _) Keeps.same (Keeps.setReg _ _ _)
  · exact TokenKeeps.raise (Keeps.advance s 1)

theorem Keeps.runMeaning {s t : State} {f : Format} {m : Mnemonic} (h : s.runMeaning f m = .next t) : Keeps s t := by
  unfold State.runMeaning at h
  split at h
  · exact Keeps.raiseIllegal h
  · split at h
    · exact Keeps.raiseIllegal h
    · exact (Keeps.advance s _).trans (exec_keeps h)

theorem TokenKeeps.recordPrefix (s : State) : TokenKeeps s s.recordPrefix := by
  unfold State.recordPrefix
  split
  · exact TokenKeeps.go Keeps.same
  · exact TokenKeeps.raise (Keeps.refl s)

theorem TokenKeeps.runToken (s : State) (f : Format) (t : Token) : TokenKeeps s (s.runToken f t) := by
  have a1 := Keeps.advance s 1
  have a2 := Keeps.advance s 2
  cases t with
  | pcb d => exact TokenKeeps.go (a1.trans (Keeps.setScratch _ _ _))
  | pcw d => exact TokenKeeps.go (a2.trans (Keeps.setScratch _ _ _))
  | drct => exact TokenKeeps.go (a1.trans Keeps.same)
  | xtnd => exact TokenKeeps.go (a2.trans Keeps.same)
  | rel8 => exact TokenKeeps.go (a1.trans Keeps.same)
  | rel16 => exact TokenKeeps.go (a2.trans Keeps.same)
  | indx => exact TokenKeeps.fetchIndx s
  | idxu => exact TokenKeeps.go (Keeps.refl s)
  | ld1 r => exact TokenKeeps.go Keeps.same
  | ld2 r => exact TokenKeeps.go Keeps.same
  | st1 r => exact TokenKeeps.go (Keeps.setReg s _ _)
  | st2 r => exact TokenKeeps.go (Keeps.setReg s _ _)
  | stEa r => exact TokenKeeps.go (Keeps.setReg s _ _)
  | ftch8 d => cases d <;> exact TokenKeeps.go Keeps.same
  | ftch16 d => cases d <;> exact TokenKeeps.go Keeps.same
  | stor8 => exact TokenKeeps.go (Keeps.stor8 s)
  | stor16 => exact TokenKeeps.go (Keeps.stor16 s)
  | rgop x => exact TokenKeeps.fetchRgop s x
  | alu op => exact TokenKeeps.go (Keeps.alu s op)
  | chk c => exact TokenKeeps.go Keeps.same
  | qt =>
    simp only [State.runToken]
    split
    · exact TokenKeeps.stop fun _ e => by cases e; exact Keeps.refl s
    · exact TokenKeeps.go (Keeps.refl s)
  | qf =>
    simp only [State.runToken]
    split
    · exact TokenKeeps.go (Keeps.refl s)
    · exact TokenKeeps.stop fun _ e => by cases e; exact Keeps.refl s
  | page => exact TokenKeeps.recordPrefix s
  | ntck => exact TokenKeeps.go Keeps.same
  | sync => exact TokenKeeps.go Keeps.same
  | wait => exact TokenKeeps.go Keeps.same
  | swi k => exact TokenKeeps.go (Keeps.swiToken s k)
  | rti => exact TokenKeeps.go (Keeps.rti s)
  | nop => exact TokenKeeps.go (Keeps.refl s)
  | err => exact TokenKeeps.raise (Keeps.refl s)
  | meaning m => exact TokenKeeps.stop fun _ e => Keeps.runMeaning e

/-- Whatever its tokens, a program keeps what `Keeps` names (R143). -/
theorem Keeps.runMicrocode {f : Format} : ∀ {ts : List Token} {s t : State}, s.runMicrocode f ts = .next t → Keeps s t := by
  intro ts
  induction ts with
  | nil => intro s t h; cases h; exact Keeps.refl s
  | cons tk ts ih =>
    intro s t h
    have k := TokenKeeps.runToken s f tk
    unfold State.runMicrocode at h
    split at h
    · rename_i u hu; exact (k.1 u hu).trans (ih h)
    · rename_i o ho; subst h; exact k.2 t ho

end Sys2Proof.Machine
end

