-- ==== Sys2Proof/Laws/Step.lean ====
section
/-! SUPPORT. What a step can do: the inversion of `onNext`, of a cycle and of a step. -/

namespace Sys2Proof.Machine

theorem onNext_next {o : Outcome} {k : State → Outcome} {t : State} (h : onNext o k = .next t) :
    ∃ u, o = .next u ∧ k u = .next t := by
  cases o with
  | next u => exact ⟨u, rfl, h⟩
  | fault r => cases h
  | refused r => cases h

/-- Everything one lookup can do: an instruction after its bytes, or `IllegalOpcode`. -/
theorem State.fetchExecute_next {s t : State} (h : s.fetchExecute = .next t) :
    (∃ i opcode n, decodeEntry s.page s.fetchWindow = .found i opcode n ∧
      exec i { s.advance n with op := opcode } = .next t) ∨
    (∃ opcode, decodeEntry s.page s.fetchWindow = .notFound opcode ∧
      State.raiseIllegal { s.advance 1 with op := opcode } = .next t) ∨
    (decodeEntry s.page s.fetchWindow = .short ∧ s.raiseIllegal = .next t) := by
  unfold State.fetchExecute at h
  split at h
  · rename_i i opcode n he
    exact .inl ⟨i, opcode, n, he, h⟩
  · rename_i opcode he
    exact .inr (.inl ⟨opcode, he, h⟩)
  · rename_i he
    exact .inr (.inr ⟨he, h⟩)

theorem Keeps.fetchExecute {s t : State} (h : s.fetchExecute = .next t) : Keeps s t := by
  have ha : ∀ n o, Keeps s { s.advance n with op := o } := fun n o =>
    (Keeps.advance s n).then_eq rfl rfl rfl rfl rfl rfl
  rcases State.fetchExecute_next h with ⟨i, o, n, -, he⟩ | ⟨o, -, he⟩ | ⟨-, he⟩
  · exact (ha n o).trans (exec_keeps he)
  · exact (ha 1 o).trans (Keeps.raiseIllegal he)
  · exact Keeps.raiseIllegal he

theorem Keeps.fetchLoop {es : List TableEntry} : ∀ {n : Nat} {s t : State}, State.fetchLoop es n s = .next t → Keeps s t := by
  intro n
  induction n with
  | zero => intro s t h; cases h
  | succ n ih =>
    intro s t h
    have ha : Keeps s { s.advance 1 with op := s.peek s.pc } := (Keeps.advance s 1).then_eq rfl rfl rfl rfl rfl rfl
    unfold State.fetchLoop at h
    simp only at h
    split at h
    · exact ha.trans (Keeps.raiseIllegal h)
    · obtain ⟨u, hu, h⟩ := onNext_next h
      have hu := ha.trans (Keeps.runMicrocode hu)
      split at h
      · exact hu.trans (ih h)
      · cases h; exact hu

/-- A loop that has ended answers the same under every larger bound: the bound decides nothing but where a loop that never ends
is cut off. -/
theorem State.fetchLoop_more {es : List TableEntry} (k : Nat) : ∀ {n : Nat} {s : State},
    State.fetchLoop es n s ≠ .fault .prefixLoop → State.fetchLoop es (n + k) s = State.fetchLoop es n s := by
  intro n
  induction n with
  | zero => intro s h; exact (h rfl).elim
  | succ n ih =>
    intro s h
    rw [Nat.add_right_comm]
    unfold State.fetchLoop at h ⊢
    simp only at h ⊢
    split
    · rfl
    · rename_i e he
      rw [he] at h
      simp only at h
      generalize State.runMicrocode _ _ _ = o at h ⊢
      cases o with
      | next u =>
        simp only [onNext] at h ⊢
        split
        · rename_i hc
          rw [if_pos hc] at h
          exact ih h
        · rfl
      | fault f => rfl
      | refused r => rfl

/-- Everything a cycle can do: with the default table one lookup, or a prefix and one more lookup; with another the loop; then
the end of the cycle. -/
theorem State.cycle_next {s t : State} (h : s.cycle = .next t) :
    (s.cfg.opcodeTable = .standard ∧ ∃ u v, s.beginCycle.fetchExecute = .next u ∧
      (u.page = .p0 ∧ v = u ∨ u.page ≠ .p0 ∧ u.fetchExecute = .next v) ∧ t = v.endCycle) ∨
    (∃ es v, s.cfg.opcodeTable = .custom es ∧ State.fetchLoop es s.prefixLimit s.beginCycle = .next v ∧ t = v.endCycle) := by
  unfold State.cycle at h
  split at h
  · rename_i hs
    obtain ⟨u, hu, h⟩ := onNext_next h
    obtain ⟨v, hv, h⟩ := onNext_next h
    cases h
    refine .inl ⟨hs, u, v, hu, ?_, rfl⟩
    split at hv
    · rename_i hp
      cases hv
      exact .inl ⟨hp, rfl⟩
    · rename_i hp
      exact .inr ⟨hp, hv⟩
  · rename_i es hs
    obtain ⟨v, hv, h⟩ := onNext_next h
    cases h
    exact .inr ⟨es, v, hs, hv, rfl⟩

theorem State.endCycle_page (s : State) : s.endCycle.page = .p0 := by
  unfold State.endCycle
  cases s.ntck <;> rfl

theorem Keeps.endCycle (s : State) : Keeps s s.endCycle := by
  unfold State.endCycle
  simp only
  split
  · exact Keeps.same
  · exact Keeps.same

theorem Keeps.cycle {s t : State} (h : s.cycle = .next t) : Keeps s t := by
  rcases State.cycle_next h with ⟨-, u, v, hu, hv, rfl⟩ | ⟨es, v, -, hv, rfl⟩
  · have h1 : Keeps s u := Keeps.trans (t := s.beginCycle) Keeps.same (Keeps.fetchExecute hu)
    rcases hv with ⟨-, rfl⟩ | ⟨-, hv⟩
    · exact h1.trans (Keeps.endCycle _)
    · exact (h1.trans (Keeps.fetchExecute hv)).trans (Keeps.endCycle _)
  · exact (Keeps.trans (t := s.beginCycle) Keeps.same (Keeps.fetchLoop hv)).trans (Keeps.endCycle _)

/-- Everything a step can do: a cycle and the check when Running, the check alone otherwise (R140). -/
theorem step_next {s t : State} (h : step s = .next t) :
    (s.run = .running ∧ ∃ u, s.beginCommand.cycle = .next u ∧ t = u.checkInterrupts) ∨
    (s.run ≠ .running ∧ t = s.beginCommand.checkInterrupts) := by
  unfold step State.runStep at h
  split at h
  · rename_i hr
    obtain ⟨u, hu, h⟩ := onNext_next h
    cases h
    exact .inl ⟨hr, u, hu, rfl⟩
  · rename_i hr
    cases h
    exact .inr ⟨by rw [hr]; decide, rfl⟩
  · rename_i hr
    cases h
    exact .inr ⟨by rw [hr]; decide, rfl⟩

/-- A step keeps what `Keeps` names. -/
theorem Keeps.step {s t : State} (h : Machine.step s = .next t) : Keeps s t := by
  have hb : Keeps s s.beginCommand := Keeps.same
  rcases step_next h with ⟨-, u, hu, rfl⟩ | ⟨-, rfl⟩
  · exact (hb.trans (Keeps.cycle hu)).trans (Keeps.checkInterrupts u)
  · exact hb.trans (Keeps.checkInterrupts _)

/-- Page 0 after a step (R31, R140). -/
theorem step_page {s t : State} (hp : s.page = .p0) (h : Machine.step s = .next t) : t.page = .p0 := by
  rcases step_next h with ⟨-, u, hu, rfl⟩ | ⟨-, rfl⟩
  · rw [State.checkInterrupts_page]
    rcases State.cycle_next hu with ⟨-, _, v, -, -, rfl⟩ | ⟨_, v, -, -, rfl⟩
    · exact State.endCycle_page v
    · exact State.endCycle_page v
  · rw [State.checkInterrupts_page]
    exact hp

end Sys2Proof.Machine
end

