-- ==== Sys2Proof/Laws/Page.lean ====
section
/-! SUPPORT. The page: no instruction but a prefix entry leaves another page than 0 (R31, R168); and the loop of R140 over the
records of the default table is the cycle of the default table. -/

namespace Sys2Proof.Machine

/-! ### The page after an instruction -/

/-- An operation that leaves the page alone. -/
abbrev KeepsPage (f : State → State) : Prop := ∀ s, (f s).page = s.page

@[simp] theorem State.drawn_page (s : State) : s.drawn.page = s.page := by rw [State.drawn_eq]

theorem State.alu_page (op : AluOp) : KeepsPage fun s => s.alu op := by
  intro s
  cases op <;> first | rfl | exact State.drawn_page _

theorem State.foldl_page {α : Type} (f : State → α → State) (h : ∀ s x, (f s x).page = s.page) (l : List α) (s : State) :
    (l.foldl f s).page = s.page := by
  induction l generalizing s with
  | nil => rfl
  | cons x l ih => exact (ih _).trans (h s x)

theorem State.pullReg_page (s : State) (sp : Stack) (r : Reg) : (s.pullReg sp r).page = s.page := by
  cases r <;> cases sp <;> rfl

theorem State.pullList_page (s : State) (sp : Stack) (pb : Byte) : (s.pullList sp pb).page = s.page := by
  have h := State.foldl_page (fun (s : State) r => s.pullReg sp r) (fun s r => s.pullReg_page sp r) (selectedRegs sp pb) s
  unfold State.pullList
  simp only
  split <;> exact h

theorem State.rti_page (s : State) : s.rti.page = s.page := by
  unfold State.rti
  simp only
  split
  · exact (State.pullReg_page _ _ _).trans
      ((State.foldl_page _ (fun s r => s.pullReg_page .S r) _ _).trans (s.pullReg_page _ _))
  · exact (State.pullReg_page _ _ _).trans (s.pullReg_page _ _)

theorem State.Pushed.page {s t : State} (h : s.Pushed t) : t.page = s.page := by rw [h]

theorem State.Entered.page {s t : State} (h : s.Entered t) : t.page = s.page := by rw [h]

theorem State.Addressed.page {s t : State} (h : s.Addressed t) : t.page = s.page := by rw [h]

theorem State.raiseIllegal_page {s t : State} (h : s.raiseIllegal = .next t) : t.page = .p0 := by
  unfold State.raiseIllegal at h
  split at h
  · cases h
  · cases h; rfl

/-- The page is as before, or 0 after an `IllegalOpcode` event. -/
def PageKept (s t : State) : Prop := t.page = s.page ∨ t.page = .p0

theorem PageKept.ofNext {s t u : State} (h : (Host.Outcome.next u : Outcome) = .next t) (hp : u.page = s.page) :
    PageKept s t := by
  cases h; exact .inl hp

theorem PageKept.orIllegal {s t : State} {r : Option State} {k : State → State} (h : s.orIllegal r k = .next t)
    (hr : ∀ u, r = some u → u.page = s.page) (hk : KeepsPage k) : PageKept s t := by
  cases r with
  | some u => exact .ofNext h ((hk u).trans (hr u rfl))
  | none => exact .inr (State.raiseIllegal_page h)

theorem State.resolveEA_page {s u : State} {m : MemOp} (h : s.resolveEA m = some u) : u.page = s.page :=
  (State.resolveEA_addressed h).page

/-- A fetched operand: the page is that of the addressing. -/
theorem State.mapEA_page {s u : State} {m : MemOp} {f : State → State} (hf : KeepsPage f)
    (h : (s.resolveEA m).map f = some u) : u.page = s.page := by
  obtain ⟨w, hw, rfl⟩ := Option.map_eq_some_iff.mp h
  exact (hf w).trans (State.resolveEA_page hw)

theorem State.operand8r1_page {s u : State} {x : Src8} (h : s.operand8r1 x = some u) : u.page = s.page := by
  cases x with
  | imm v => cases h; rfl
  | mem m => exact State.mapEA_page (f := State.ftch8r1) (fun _ => rfl) h

theorem State.operand8r2_page {s u : State} {x : Src8} (h : s.operand8r2 x = some u) : u.page = s.page := by
  cases x with
  | imm v => cases h; rfl
  | mem m => exact State.mapEA_page (f := State.ftch8r2) (fun _ => rfl) h

theorem State.operand16r1_page {s u : State} {x : Src16} (h : s.operand16r1 x = some u) : u.page = s.page := by
  cases x with
  | imm v => cases h; rfl
  | mem m => exact State.mapEA_page (f := State.ftch16r1) (fun _ => rfl) h

theorem State.operand16r2_page {s u : State} {x : Src16} (h : s.operand16r2 x = some u) : u.page = s.page := by
  cases x with
  | imm v => cases h; rfl
  | mem m => exact State.mapEA_page (f := State.ftch16r2) (fun _ => rfl) h

theorem PageKept.load8 {r : Reg} {src : Src8} {s t : State} (h : Machine.load8 r src s = .next t) : PageKept s t :=
  .orIllegal h (fun _ => State.operand8r1_page) fun u => State.setReg_page u r u.r1

theorem PageKept.load16 {r : Reg} {src : Src16} {s t : State} (h : Machine.load16 r src s = .next t) : PageKept s t :=
  .orIllegal h (fun _ => State.operand16r1_page) fun u => State.setReg_page u r u.r1

theorem PageKept.store8 {r : Reg} {m : MemOp} {s t : State} (h : Machine.store8 r m s = .next t) : PageKept s t :=
  .orIllegal h (fun _ => State.resolveEA_page) fun _ => rfl

theorem PageKept.store16 {r : Reg} {m : MemOp} {s t : State} (h : Machine.store16 r m s = .next t) : PageKept s t :=
  .orIllegal h (fun _ => State.resolveEA_page) fun _ => rfl

theorem PageKept.binary8 {op : State → State} (ho : KeepsPage op) {r : Reg} {src : Src8} {s t : State}
    (h : Machine.binary8 op r src s = .next t) : PageKept s t :=
  .orIllegal h (fun _ => State.operand8r2_page) fun u => (State.setReg_page _ r _).trans (ho (u.ld1 r))

theorem PageKept.test8 {op : State → State} (ho : KeepsPage op) {r : Reg} {src : Src8} {s t : State}
    (h : Machine.test8 op r src s = .next t) : PageKept s t :=
  .orIllegal h (fun _ => State.operand8r2_page) fun u => ho (u.ld1 r)

theorem PageKept.binary16 {op : State → State} (ho : KeepsPage op) {r : Reg} {src : Src16} {s t : State}
    (h : Machine.binary16 op r src s = .next t) : PageKept s t :=
  .orIllegal h (fun _ => State.operand16r2_page) fun u => (State.setReg_page _ r _).trans (ho (u.ld1 r))

theorem PageKept.test16 {op : State → State} (ho : KeepsPage op) {r : Reg} {src : Src16} {s t : State}
    (h : Machine.test16 op r src s = .next t) : PageKept s t :=
  .orIllegal h (fun _ => State.operand16r2_page) fun u => ho (u.ld1 r)

theorem PageKept.test16Old {op : State → State} (ho : KeepsPage op) {r : Reg} {src : Src16} {s t : State}
    (h : Machine.test16Old op r src s = .next t) : PageKept s t :=
  .orIllegal h (fun _ => State.operand16r2_page) fun u => ho { u with r1 := s.reg r }

theorem PageKept.cmpx {src : Src16} {s t : State} (h : execCmpx src s = .next t) : PageKept s t := by
  unfold execCmpx at h
  split at h
  · exact .test16Old (State.alu_page .sub16) h
  · exact .test16 (State.alu_page .sub16) h

theorem PageKept.unaryReg {op : State → State} (ho : KeepsPage op) {r : Reg} {s t : State}
    (h : Machine.unaryReg op r s = .next t) : PageKept s t :=
  .ofNext h ((State.setReg_page _ r _).trans (ho (s.ld1 r)))

theorem PageKept.readModifyWrite {op : State → State} (ho : KeepsPage op) {m : MemOp} {s t : State}
    (h : Machine.readModifyWrite op m s = .next t) : PageKept s t :=
  .orIllegal h (fun _ => State.resolveEA_page) fun u => ho u.ftch8r1

theorem State.branchIf_page (c : ChkCond) : KeepsPage fun s => s.branchIf c := by
  intro s
  show State.page (if _ then _ else _) = _
  split <;> rfl

theorem State.branchIfNot_page (c : ChkCond) : KeepsPage fun s => s.branchIfNot c := by
  intro s
  show State.page (if _ then _ else _) = _
  split <;> rfl

theorem State.call_page : KeepsPage State.call := fun s => (State.Pushed.push16 s .S s.pc).page

theorem State.swi_page (s : State) (masks : Bool) (vector : Word) : (s.swi masks vector).page = s.page := by
  have h := (State.Entered.enter s .entire masks masks vector).page
  unfold State.swi
  exact h

theorem PageKept.tfr {p q : PairReg} {s t : State} (h : execTfr p q s = .next t) : PageKept s t := by
  unfold execTfr at h
  split at h
  · exact .ofNext h (State.setReg_page _ _ _)
  · exact .inr (State.raiseIllegal_page h)

theorem PageKept.exg {p q : PairReg} {s t : State} (h : execExg p q s = .next t) : PageKept s t := by
  unfold execExg at h
  split at h
  · exact .ofNext h ((State.setReg_page _ _ _).trans (State.setReg_page _ _ _))
  · exact .inr (State.raiseIllegal_page h)

theorem PageKept.cwai {mask : Byte} {s t : State} (h : execCwai mask s = .next t) : PageKept s t := by
  refine .ofNext h ?_
  show State.page (if _ then _ else _) = _
  split
  · exact (State.Entered.pushFrame _ .entire).page
  · rfl

theorem State.advance_page (s : State) (n : Nat) : (s.advance n).page = s.page := by
  induction n generalizing s with
  | zero => rfl
  | succ n ih => exact ih (s.setPc (s.pc + 1))

/-- Only the two prefix entries change the page to anything but 0 (R168). -/
theorem exec_page {i : Instr} {s t : State} (h : exec i s = .next t) (hi : i.selectsPage = .p0) : PageKept s t := by
  cases i with
  | lda src | ldb src => exact .load8 h
  | ldd src | ldx src | ldy src | ldu src | lds src => exact .load16 h
  | sta m | stb m => exact .store8 h
  | std m | stx m | sty m | stu m | sts m => exact .store16 h
  | leax ix | leay ix => exact .orIllegal h (fun _ e => (State.indx_addressed e).page) fun u => State.setReg_page u _ _
  | leas ix | leau ix => exact .orIllegal h (fun _ e => (State.indx_addressed e).page) fun u => State.setReg_page u _ _
  | tfr p q => exact .tfr h
  | exg p q => exact .exg h
  | adda src | addb src => exact .binary8 (State.alu_page .add8) h
  | adca src | adcb src => exact .binary8 (State.alu_page .adc8) h
  | addd src => exact .binary16 (State.alu_page .add16) h
  | suba src | subb src => exact .binary8 (State.alu_page .sub8) h
  | sbca src | sbcb src => exact .binary8 (State.alu_page .sbc8) h
  | subd src => exact .binary16 (State.alu_page .sub16) h
  | cmpa src | cmpb src => exact .test8 (State.alu_page .sub8) h
  | cmpd src | cmpy src | cmpu src | cmps src => exact .test16 (State.alu_page .sub16) h
  | cmpx src => exact .cmpx h
  | neg m => exact .readModifyWrite (State.alu_page .neg8) h
  | nega | negb => exact .unaryReg (State.alu_page .neg8) h
  | inc m => exact .readModifyWrite (State.alu_page .inc8) h
  | inca | incb => exact .unaryReg (State.alu_page .inc8) h
  | dec m => exact .readModifyWrite (State.alu_page .dec8) h
  | deca | decb => exact .unaryReg (State.alu_page .dec8) h
  | tst m => exact .orIllegal h (fun _ => State.resolveEA_page) fun _ => rfl
  | tsta | tstb => exact .ofNext h rfl
  | clr m => exact .orIllegal h (fun _ => State.resolveEA_page) fun _ => rfl
  | clra | clrb => exact .ofNext h (State.setReg_page _ _ _)
  | mul | sex | abx => exact .ofNext h rfl
  | daa => exact .ofNext h (State.alu_page .daa s)
  | anda src | andb src => exact .binary8 (State.alu_page .and8) h
  | ora src | orb src => exact .binary8 (State.alu_page .or8) h
  | eora src | eorb src => exact .binary8 (State.alu_page .eor8) h
  | bita src | bitb src => exact .test8 (State.alu_page .and8) h
  | com m => exact .readModifyWrite (State.alu_page .com8) h
  | coma | comb => exact .unaryReg (State.alu_page .com8) h
  | lsr m => exact .readModifyWrite (State.alu_page .lsr8) h
  | lsra | lsrb => exact .unaryReg (State.alu_page .lsr8) h
  | ror m => exact .readModifyWrite (State.alu_page .ror8) h
  | rora | rorb => exact .unaryReg (State.alu_page .ror8) h
  | asr m => exact .readModifyWrite (State.alu_page .asr8) h
  | asra | asrb => exact .unaryReg (State.alu_page .asr8) h
  | lsl m => exact .readModifyWrite (State.alu_page .lsl8) h
  | lsla | lslb => exact .unaryReg (State.alu_page .lsl8) h
  | rol m => exact .readModifyWrite (State.alu_page .rol8) h
  | rola | rolb => exact .unaryReg (State.alu_page .rol8) h
  | andcc mask | orcc mask => exact .ofNext h rfl
  | bra d | brn d | lbra d | lbrn d => exact .ofNext h rfl
  | bhi d | bcc d | bne d | bvc d | bpl d | bge d | bgt d => exact .ofNext h (State.branchIfNot_page _ (s.rel8 d))
  | bls d | bcs d | beq d | bvs d | bmi d | blt d | ble d => exact .ofNext h (State.branchIf_page _ (s.rel8 d))
  | lbhi d | lbcc d | lbne d | lbvc d | lbpl d | lbge d | lbgt d => exact .ofNext h (State.branchIfNot_page _ (s.rel16 d))
  | lbls d | lbcs d | lbeq d | lbvs d | lbmi d | lblt d | lble d => exact .ofNext h (State.branchIf_page _ (s.rel16 d))
  | bsr d => exact .ofNext h (State.call_page (s.rel8 d))
  | lbsr d => exact .ofNext h (State.call_page (s.rel16 d))
  | jsr m => exact .orIllegal h (fun _ => State.resolveEA_page) State.call_page
  | rts => exact .ofNext h (s.pullReg_page .S .PC)
  | jmp m => exact .orIllegal h (fun _ => State.resolveEA_page) fun _ => rfl
  | pshs l | pshu l => exact .ofNext h (State.Pushed.pushList s _ l).page
  | puls l | pulu l => exact .ofNext h (s.pullList_page _ l)
  | swi | swi2 | swi3 => exact .ofNext h (s.swi_page _ _)
  | rti => exact .ofNext h s.rti_page
  | cwai mask => exact .cwai h
  | sync | nop => exact .ofNext h rfl
  | prefix10 | prefix11 => cases hi

/-! ### The default table's records as any table's (R140, R142) -/

/-- A lookup in the records of the default table is `OpFind` (R142). -/
theorem findEntry_standard (o : Byte) (p : Page) :
    findEntry OpcodeTable.standard.entries o p = (opFind o p).map Row.entry := by
  unfold findEntry OpcodeTable.entries opFind
  rw [List.find?_map]
  rfl

/-- Three bytes hold the operand of every format, and a fourth is not read (R90, R91). -/
theorem decodeOperand_three (f : Format) (a b c d : Byte) :
    decodeOperand f [a, b, c, d] = decodeOperand f [a, b, c] ∧ (decodeOperand f [a, b, c]).isSome := by
  have mode : ∀ k : BitVec 4, decodeMode k [b, c, d] = decodeMode k [b, c] ∧ (decodeMode k [b, c]).isSome := by
    intro k
    have all : ∀ k : BitVec 4, k ∈ [0#4, 1, 2, 3, 4, 5, 6, 7, 8, 9, 10, 11, 12, 13, 14, 15] := by decide
    have h := all k
    simp only [List.mem_cons, List.not_mem_nil, or_false] at h
    rcases h with h | h | h | h | h | h | h | h | h | h | h | h | h | h | h | h <;> subst h <;> exact ⟨rfl, rfl⟩
  have index : decodeIndex [a, b, c, d] = decodeIndex [a, b, c] ∧ (decodeIndex [a, b, c]).isSome := by
    unfold decodeIndex
    simp only
    split
    · rw [(mode _).1]
      exact ⟨rfl, by simpa using (mode _).2⟩
    · exact ⟨rfl, rfl⟩
  cases f <;> first | exact ⟨rfl, rfl⟩ | (constructor <;> simp [decodeOperand, index.1]; simpa using index.2)

/-- Only an operand of the format PREFIX makes an instruction that selects a page. -/
theorem make_selectsPage {m : Mnemonic} {o : Operand} {i : Instr} (h : Instr.make m o = some i) :
    i.selectsPage = .p0 ∨ o = .pager := by
  cases m
  case prefix10 | prefix11 => right; cases o <;> first | rfl | cases h
  all_goals
    left
    simp only [Instr.make, Operand.inherent, Option.map_eq_some_iff] at h
    first
    | (obtain ⟨a, _, rfl⟩ := h; rfl)
    | (split at h <;> first | (cases h; done) | (cases h; rfl))

theorem decodeOperand_pager {f : Format} {bs : List Byte} {n : Nat} (h : decodeOperand f bs = some (.pager, n)) :
    f = .pager := by
  cases f <;> simp [decodeOperand, takeByte, takeWord] at h <;> (repeat' split at h) <;> simp_all

theorem State.advance_op (s : State) (n : Nat) (o : Byte) :
    ({ s with op := o } : State).advance n = { s.advance n with op := o } := by
  induction n generalizing s with
  | zero => rfl
  | succ n ih => exact ih (s.setPc (s.pc + 1))

/-- One turn of the loop of R140 over the records of the default table is one lookup of the default cycle; only a prefix record
goes on. -/
theorem State.fetchLoop_standard (s : State) (n : Nat) :
    State.fetchLoop OpcodeTable.standard.entries (n + 1) s = onNext s.fetchExecute fun u =>
      match opFind (s.peek s.pc) s.page with
      | some r => if r.format = .pager then State.fetchLoop OpcodeTable.standard.entries n u else .next u
      | none => .next u := by
  rw [State.fetchLoop]
  unfold State.fetchExecute
  have hw : s.fetchWindow = [s.peek s.pc, s.peek (s.pc + 1), s.peek (s.pc + 2), s.peek (s.pc + 3)] := rfl
  simp only [findEntry_standard, hw, decodeEntry]
  cases h : opFind (s.peek s.pc) s.page with
  | none =>
    simp only [Option.map]
    cases State.raiseIllegal _ <;> rfl
  | some r =>
    simp only [Option.map]
    by_cases hp : r.format = .pager
    · have hic : (s.advance 1).illegalCount = s.illegalCount := rfl
      have hk := opFind_key h
      rcases pager_rows r (opFind_mem h) hp with rfl | rfl
      · simp [Row.entry, Instr.make, Operand.prefixOnly, decodeOperand, State.runMicrocode, State.runToken,
          State.recordPrefix, Page.ofByte, ← hk.1, onNext, State.recordPage, hic, exec, execPrefix10]
      · simp [Row.entry, Instr.make, Operand.prefixOnly, decodeOperand, State.runMicrocode, State.runToken,
          State.recordPrefix, Page.ofByte, ← hk.1, onNext, State.recordPage, hic, exec, execPrefix11]
    · simp only [Row.entry, hp, if_false, false_and, State.runMicrocode, State.runToken, State.runMeaning]
      have hw' : State.fetchWindow { s.advance 1 with op := s.peek s.pc } =
          [s.peek (s.pc + 1), s.peek (s.pc + 2), s.peek (s.pc + 3), s.peek (s.pc + 4)] := by
        show [s.peek (s.pc + 1), s.peek (s.pc + 1 + 1), s.peek (s.pc + 1 + 2), s.peek (s.pc + 1 + 3)] = _
        simp only [BitVec.add_assoc]
        rfl
      rw [hw', (decodeOperand_three _ _ _ _ _).1]
      obtain ⟨⟨o, k⟩, hd⟩ := Option.isSome_iff_exists.mp
        (decodeOperand_three r.format (s.peek (s.pc + 1)) (s.peek (s.pc + 2)) (s.peek (s.pc + 3)) 0).2
      rw [hd]
      simp only
      cases Instr.make r.mnemonic o with
      | none => rfl
      | some i =>
        simp only [State.advance_op]
        rfl

/-- What a lookup that answers says of the page it leaves: 0 unless it read a prefix record. -/
theorem State.fetchExecute_page {s t : State} (hs : s.page = .p0) (h : s.fetchExecute = .next t) :
    (∃ r, opFind (s.peek s.pc) s.page = some r ∧ r.format = .pager ∧ t.page ≠ .p0) ∨
    ((∀ r, opFind (s.peek s.pc) s.page = some r → r.format ≠ .pager) ∧ t.page = .p0) := by
  have hw : s.fetchWindow = [s.peek s.pc, s.peek (s.pc + 1), s.peek (s.pc + 2), s.peek (s.pc + 3)] := rfl
  unfold State.fetchExecute at h
  simp only [hw, decodeEntry] at h
  cases hf : opFind (s.peek s.pc) s.page with
  | none =>
    rw [hf] at h
    exact .inr ⟨by simp, State.raiseIllegal_page h⟩
  | some r =>
    rw [hf] at h
    simp only at h
    obtain ⟨⟨o, k⟩, hd⟩ := Option.isSome_iff_exists.mp
      (decodeOperand_three r.format (s.peek (s.pc + 1)) (s.peek (s.pc + 2)) (s.peek (s.pc + 3)) 0).2
    rw [hd] at h
    simp only at h
    by_cases hp : r.format = .pager
    · refine .inl ⟨r, rfl, hp, ?_⟩
      rw [hp] at hd
      cases hd
      rcases pager_rows r (opFind_mem hf) hp with rfl | rfl <;> cases h <;> simp [State.recordPage]
    · refine .inr ⟨fun q e => by cases e; exact hp, ?_⟩
      cases hm : Instr.make r.mnemonic o with
      | none =>
        rw [hm] at h
        exact State.raiseIllegal_page h
      | some i =>
        rw [hm] at h
        have hi : i.selectsPage = .p0 := (make_selectsPage hm).resolve_right fun e => hp (decodeOperand_pager (e ▸ hd))
        rcases exec_page h hi with e | e
        · exact e.trans ((State.advance_page s (k + 1)).trans hs)
        · exact e

/-- The loop of R140 over the records of the default table is the two lookups of the default cycle. -/
theorem State.fetchLoop_default (s : State) (hs : s.page = .p0) (n : Nat) :
    State.fetchLoop OpcodeTable.standard.entries (n + 2) s =
      onNext s.fetchExecute fun t => if t.page = .p0 then .next t else t.fetchExecute := by
  rw [State.fetchLoop_standard s (n + 1)]
  cases hx : s.fetchExecute with
  | fault f => rfl
  | refused r => rfl
  | next t =>
    simp only [onNext]
    rcases State.fetchExecute_page hs hx with ⟨r, hf, hp, ht⟩ | ⟨hf, ht⟩
    · rw [hf]
      simp only [hp, if_true, if_neg ht]
      rw [State.fetchLoop_standard t n]
      cases t.fetchExecute with
      | fault f => rfl
      | refused r => rfl
      | next u =>
        simp only [onNext]
        cases hf' : opFind (t.peek t.pc) t.page with
        | none => rfl
        | some q =>
          have hq : q.format ≠ .pager := by
            intro hq
            apply ht
            rw [← (opFind_key hf').2]
            rcases pager_rows q (opFind_mem hf') hq with rfl | rfl <;> rfl
          simp only [hq, if_false]
    · rw [if_pos ht]
      split
      · rename_i r hr
        rw [if_neg (hf r hr)]
      · rfl

/-- Over the records of the default table, whatever spells them, a cycle is two lookups at most (R140, R141). -/
theorem State.cycle_default (s : State) (h : s.cfg.opcodeTable.entries = OpcodeTable.standard.entries) :
    s.cycle = onNext s.beginCycle.fetchExecute fun t =>
      onNext (if t.page = .p0 then .next t else t.fetchExecute) fun u => .next u.endCycle := by
  unfold State.cycle
  cases ht : s.cfg.opcodeTable with
  | standard => rfl
  | custom es =>
    rw [ht] at h
    have he : es = OpcodeTable.standard.entries := h
    simp only
    rw [he, State.prefixLimit, State.fetchLoop_default s.beginCycle rfl]
    cases s.beginCycle.fetchExecute <;> rfl

end Sys2Proof.Machine
end

