-- ==== Sys2Proof/Laws/PerInstr.lean ====
section
/-! SUPPORT. The family Encoding: each instruction has a row of the table for its mnemonic and its operand's format, and is
what `Instr.make` builds from the two (R105 of `30_encoding.md`, R503 of `47_encoder.md`). -/

namespace Sys2Proof.Laws.Encoding

/-- The instruction's row exists, and mnemonic and operand give the instruction back. -/
def Statement (i : Instr) : Prop :=
  (rowOf i.mnemonic i.operand.format).isSome = true ∧ Instr.make i.mnemonic i.operand = some i

theorem lda (src : Src8) : Statement (.lda src) := by
  rcases src with v | ⟨lo | a | ix⟩ <;> exact ⟨rfl, rfl⟩

theorem ldb (src : Src8) : Statement (.ldb src) := by
  rcases src with v | ⟨lo | a | ix⟩ <;> exact ⟨rfl, rfl⟩

theorem ldd (src : Src16) : Statement (.ldd src) := by
  rcases src with v | ⟨lo | a | ix⟩ <;> exact ⟨rfl, rfl⟩

theorem ldx (src : Src16) : Statement (.ldx src) := by
  rcases src with v | ⟨lo | a | ix⟩ <;> exact ⟨rfl, rfl⟩

theorem ldy (src : Src16) : Statement (.ldy src) := by
  rcases src with v | ⟨lo | a | ix⟩ <;> exact ⟨rfl, rfl⟩

theorem ldu (src : Src16) : Statement (.ldu src) := by
  rcases src with v | ⟨lo | a | ix⟩ <;> exact ⟨rfl, rfl⟩

theorem lds (src : Src16) : Statement (.lds src) := by
  rcases src with v | ⟨lo | a | ix⟩ <;> exact ⟨rfl, rfl⟩

theorem sta (m : MemOp) : Statement (.sta m) := by
  rcases m with lo | a | ix <;> exact ⟨rfl, rfl⟩

theorem stb (m : MemOp) : Statement (.stb m) := by
  rcases m with lo | a | ix <;> exact ⟨rfl, rfl⟩

theorem std (m : MemOp) : Statement (.std m) := by
  rcases m with lo | a | ix <;> exact ⟨rfl, rfl⟩

theorem stx (m : MemOp) : Statement (.stx m) := by
  rcases m with lo | a | ix <;> exact ⟨rfl, rfl⟩

theorem sty (m : MemOp) : Statement (.sty m) := by
  rcases m with lo | a | ix <;> exact ⟨rfl, rfl⟩

theorem stu (m : MemOp) : Statement (.stu m) := by
  rcases m with lo | a | ix <;> exact ⟨rfl, rfl⟩

theorem sts (m : MemOp) : Statement (.sts m) := by
  rcases m with lo | a | ix <;> exact ⟨rfl, rfl⟩

theorem leax (ix : Index) : Statement (.leax ix) := ⟨rfl, rfl⟩

theorem leay (ix : Index) : Statement (.leay ix) := ⟨rfl, rfl⟩

theorem leas (ix : Index) : Statement (.leas ix) := ⟨rfl, rfl⟩

theorem leau (ix : Index) : Statement (.leau ix) := ⟨rfl, rfl⟩

theorem tfr (src : PairReg) (dst : PairReg) : Statement (.tfr src dst) := ⟨rfl, rfl⟩

theorem exg (src : PairReg) (dst : PairReg) : Statement (.exg src dst) := ⟨rfl, rfl⟩

theorem adda (src : Src8) : Statement (.adda src) := by
  rcases src with v | ⟨lo | a | ix⟩ <;> exact ⟨rfl, rfl⟩

theorem addb (src : Src8) : Statement (.addb src) := by
  rcases src with v | ⟨lo | a | ix⟩ <;> exact ⟨rfl, rfl⟩

theorem adca (src : Src8) : Statement (.adca src) := by
  rcases src with v | ⟨lo | a | ix⟩ <;> exact ⟨rfl, rfl⟩

theorem adcb (src : Src8) : Statement (.adcb src) := by
  rcases src with v | ⟨lo | a | ix⟩ <;> exact ⟨rfl, rfl⟩

theorem addd (src : Src16) : Statement (.addd src) := by
  rcases src with v | ⟨lo | a | ix⟩ <;> exact ⟨rfl, rfl⟩

theorem suba (src : Src8) : Statement (.suba src) := by
  rcases src with v | ⟨lo | a | ix⟩ <;> exact ⟨rfl, rfl⟩

theorem subb (src : Src8) : Statement (.subb src) := by
  rcases src with v | ⟨lo | a | ix⟩ <;> exact ⟨rfl, rfl⟩

theorem sbca (src : Src8) : Statement (.sbca src) := by
  rcases src with v | ⟨lo | a | ix⟩ <;> exact ⟨rfl, rfl⟩

theorem sbcb (src : Src8) : Statement (.sbcb src) := by
  rcases src with v | ⟨lo | a | ix⟩ <;> exact ⟨rfl, rfl⟩

theorem subd (src : Src16) : Statement (.subd src) := by
  rcases src with v | ⟨lo | a | ix⟩ <;> exact ⟨rfl, rfl⟩

theorem cmpa (src : Src8) : Statement (.cmpa src) := by
  rcases src with v | ⟨lo | a | ix⟩ <;> exact ⟨rfl, rfl⟩

theorem cmpb (src : Src8) : Statement (.cmpb src) := by
  rcases src with v | ⟨lo | a | ix⟩ <;> exact ⟨rfl, rfl⟩

theorem cmpd (src : Src16) : Statement (.cmpd src) := by
  rcases src with v | ⟨lo | a | ix⟩ <;> exact ⟨rfl, rfl⟩

theorem cmpx (src : Src16) : Statement (.cmpx src) := by
  rcases src with v | ⟨lo | a | ix⟩ <;> exact ⟨rfl, rfl⟩

theorem cmpy (src : Src16) : Statement (.cmpy src) := by
  rcases src with v | ⟨lo | a | ix⟩ <;> exact ⟨rfl, rfl⟩

theorem cmpu (src : Src16) : Statement (.cmpu src) := by
  rcases src with v | ⟨lo | a | ix⟩ <;> exact ⟨rfl, rfl⟩

theorem cmps (src : Src16) : Statement (.cmps src) := by
  rcases src with v | ⟨lo | a | ix⟩ <;> exact ⟨rfl, rfl⟩

theorem neg (m : MemOp) : Statement (.neg m) := by
  rcases m with lo | a | ix <;> exact ⟨rfl, rfl⟩

theorem nega : Statement (.nega) := ⟨rfl, rfl⟩

theorem negb : Statement (.negb) := ⟨rfl, rfl⟩

theorem inc (m : MemOp) : Statement (.inc m) := by
  rcases m with lo | a | ix <;> exact ⟨rfl, rfl⟩

theorem inca : Statement (.inca) := ⟨rfl, rfl⟩

theorem incb : Statement (.incb) := ⟨rfl, rfl⟩

theorem dec (m : MemOp) : Statement (.dec m) := by
  rcases m with lo | a | ix <;> exact ⟨rfl, rfl⟩

theorem deca : Statement (.deca) := ⟨rfl, rfl⟩

theorem decb : Statement (.decb) := ⟨rfl, rfl⟩

theorem tst (m : MemOp) : Statement (.tst m) := by
  rcases m with lo | a | ix <;> exact ⟨rfl, rfl⟩

theorem tsta : Statement (.tsta) := ⟨rfl, rfl⟩

theorem tstb : Statement (.tstb) := ⟨rfl, rfl⟩

theorem clr (m : MemOp) : Statement (.clr m) := by
  rcases m with lo | a | ix <;> exact ⟨rfl, rfl⟩

theorem clra : Statement (.clra) := ⟨rfl, rfl⟩

theorem clrb : Statement (.clrb) := ⟨rfl, rfl⟩

theorem mul : Statement (.mul) := ⟨rfl, rfl⟩

theorem daa : Statement (.daa) := ⟨rfl, rfl⟩

theorem sex : Statement (.sex) := ⟨rfl, rfl⟩

theorem abx : Statement (.abx) := ⟨rfl, rfl⟩

theorem anda (src : Src8) : Statement (.anda src) := by
  rcases src with v | ⟨lo | a | ix⟩ <;> exact ⟨rfl, rfl⟩

theorem andb (src : Src8) : Statement (.andb src) := by
  rcases src with v | ⟨lo | a | ix⟩ <;> exact ⟨rfl, rfl⟩

theorem ora (src : Src8) : Statement (.ora src) := by
  rcases src with v | ⟨lo | a | ix⟩ <;> exact ⟨rfl, rfl⟩

theorem orb (src : Src8) : Statement (.orb src) := by
  rcases src with v | ⟨lo | a | ix⟩ <;> exact ⟨rfl, rfl⟩

theorem eora (src : Src8) : Statement (.eora src) := by
  rcases src with v | ⟨lo | a | ix⟩ <;> exact ⟨rfl, rfl⟩

theorem eorb (src : Src8) : Statement (.eorb src) := by
  rcases src with v | ⟨lo | a | ix⟩ <;> exact ⟨rfl, rfl⟩

theorem bita (src : Src8) : Statement (.bita src) := by
  rcases src with v | ⟨lo | a | ix⟩ <;> exact ⟨rfl, rfl⟩

theorem bitb (src : Src8) : Statement (.bitb src) := by
  rcases src with v | ⟨lo | a | ix⟩ <;> exact ⟨rfl, rfl⟩

theorem com (m : MemOp) : Statement (.com m) := by
  rcases m with lo | a | ix <;> exact ⟨rfl, rfl⟩

theorem coma : Statement (.coma) := ⟨rfl, rfl⟩

theorem comb : Statement (.comb) := ⟨rfl, rfl⟩

theorem lsr (m : MemOp) : Statement (.lsr m) := by
  rcases m with lo | a | ix <;> exact ⟨rfl, rfl⟩

theorem lsra : Statement (.lsra) := ⟨rfl, rfl⟩

theorem lsrb : Statement (.lsrb) := ⟨rfl, rfl⟩

theorem ror (m : MemOp) : Statement (.ror m) := by
  rcases m with lo | a | ix <;> exact ⟨rfl, rfl⟩

theorem rora : Statement (.rora) := ⟨rfl, rfl⟩

theorem rorb : Statement (.rorb) := ⟨rfl, rfl⟩

theorem asr (m : MemOp) : Statement (.asr m) := by
  rcases m with lo | a | ix <;> exact ⟨rfl, rfl⟩

theorem asra : Statement (.asra) := ⟨rfl, rfl⟩

theorem asrb : Statement (.asrb) := ⟨rfl, rfl⟩

theorem lsl (m : MemOp) : Statement (.lsl m) := by
  rcases m with lo | a | ix <;> exact ⟨rfl, rfl⟩

theorem lsla : Statement (.lsla) := ⟨rfl, rfl⟩

theorem lslb : Statement (.lslb) := ⟨rfl, rfl⟩

theorem rol (m : MemOp) : Statement (.rol m) := by
  rcases m with lo | a | ix <;> exact ⟨rfl, rfl⟩

theorem rola : Statement (.rola) := ⟨rfl, rfl⟩

theorem rolb : Statement (.rolb) := ⟨rfl, rfl⟩

theorem andcc (mask : Byte) : Statement (.andcc mask) := ⟨rfl, rfl⟩

theorem orcc (mask : Byte) : Statement (.orcc mask) := ⟨rfl, rfl⟩

theorem bra (disp : Byte) : Statement (.bra disp) := ⟨rfl, rfl⟩

theorem brn (disp : Byte) : Statement (.brn disp) := ⟨rfl, rfl⟩

theorem bhi (disp : Byte) : Statement (.bhi disp) := ⟨rfl, rfl⟩

theorem bls (disp : Byte) : Statement (.bls disp) := ⟨rfl, rfl⟩

theorem bcc (disp : Byte) : Statement (.bcc disp) := ⟨rfl, rfl⟩

theorem bcs (disp : Byte) : Statement (.bcs disp) := ⟨rfl, rfl⟩

theorem bne (disp : Byte) : Statement (.bne disp) := ⟨rfl, rfl⟩

theorem beq (disp : Byte) : Statement (.beq disp) := ⟨rfl, rfl⟩

theorem bvc (disp : Byte) : Statement (.bvc disp) := ⟨rfl, rfl⟩

theorem bvs (disp : Byte) : Statement (.bvs disp) := ⟨rfl, rfl⟩

theorem bpl (disp : Byte) : Statement (.bpl disp) := ⟨rfl, rfl⟩

theorem bmi (disp : Byte) : Statement (.bmi disp) := ⟨rfl, rfl⟩

theorem bge (disp : Byte) : Statement (.bge disp) := ⟨rfl, rfl⟩

theorem blt (disp : Byte) : Statement (.blt disp) := ⟨rfl, rfl⟩

theorem bgt (disp : Byte) : Statement (.bgt disp) := ⟨rfl, rfl⟩

theorem ble (disp : Byte) : Statement (.ble disp) := ⟨rfl, rfl⟩

theorem lbra (disp : Word) : Statement (.lbra disp) := ⟨rfl, rfl⟩

theorem lbrn (disp : Word) : Statement (.lbrn disp) := ⟨rfl, rfl⟩

theorem lbhi (disp : Word) : Statement (.lbhi disp) := ⟨rfl, rfl⟩

theorem lbls (disp : Word) : Statement (.lbls disp) := ⟨rfl, rfl⟩

theorem lbcc (disp : Word) : Statement (.lbcc disp) := ⟨rfl, rfl⟩

theorem lbcs (disp : Word) : Statement (.lbcs disp) := ⟨rfl, rfl⟩

theorem lbne (disp : Word) : Statement (.lbne disp) := ⟨rfl, rfl⟩

theorem lbeq (disp : Word) : Statement (.lbeq disp) := ⟨rfl, rfl⟩

theorem lbvc (disp : Word) : Statement (.lbvc disp) := ⟨rfl, rfl⟩

theorem lbvs (disp : Word) : Statement (.lbvs disp) := ⟨rfl, rfl⟩

theorem lbpl (disp : Word) : Statement (.lbpl disp) := ⟨rfl, rfl⟩

theorem lbmi (disp : Word) : Statement (.lbmi disp) := ⟨rfl, rfl⟩

theorem lbge (disp : Word) : Statement (.lbge disp) := ⟨rfl, rfl⟩

theorem lblt (disp : Word) : Statement (.lblt disp) := ⟨rfl, rfl⟩

theorem lbgt (disp : Word) : Statement (.lbgt disp) := ⟨rfl, rfl⟩

theorem lble (disp : Word) : Statement (.lble disp) := ⟨rfl, rfl⟩

theorem bsr (disp : Byte) : Statement (.bsr disp) := ⟨rfl, rfl⟩

theorem lbsr (disp : Word) : Statement (.lbsr disp) := ⟨rfl, rfl⟩

theorem jsr (m : MemOp) : Statement (.jsr m) := by
  rcases m with lo | a | ix <;> exact ⟨rfl, rfl⟩

theorem rts : Statement (.rts) := ⟨rfl, rfl⟩

theorem jmp (m : MemOp) : Statement (.jmp m) := by
  rcases m with lo | a | ix <;> exact ⟨rfl, rfl⟩

theorem pshs (list : Byte) : Statement (.pshs list) := ⟨rfl, rfl⟩

theorem puls (list : Byte) : Statement (.puls list) := ⟨rfl, rfl⟩

theorem pshu (list : Byte) : Statement (.pshu list) := ⟨rfl, rfl⟩

theorem pulu (list : Byte) : Statement (.pulu list) := ⟨rfl, rfl⟩

theorem swi : Statement (.swi) := ⟨rfl, rfl⟩

theorem swi2 : Statement (.swi2) := ⟨rfl, rfl⟩

theorem swi3 : Statement (.swi3) := ⟨rfl, rfl⟩

theorem rti : Statement (.rti) := ⟨rfl, rfl⟩

theorem cwai (mask : Byte) : Statement (.cwai mask) := ⟨rfl, rfl⟩

theorem sync : Statement (.sync) := ⟨rfl, rfl⟩

theorem nop : Statement (.nop) := ⟨rfl, rfl⟩

theorem prefix10 : Statement (.prefix10) := ⟨rfl, rfl⟩

theorem prefix11 : Statement (.prefix11) := ⟨rfl, rfl⟩

/-- The family's statement for every instruction. -/
theorem all (i : Instr) : Statement i := by
  cases i with
  | lda src => exact lda src
  | ldb src => exact ldb src
  | ldd src => exact ldd src
  | ldx src => exact ldx src
  | ldy src => exact ldy src
  | ldu src => exact ldu src
  | lds src => exact lds src
  | sta m => exact sta m
  | stb m => exact stb m
  | std m => exact std m
  | stx m => exact stx m
  | sty m => exact sty m
  | stu m => exact stu m
  | sts m => exact sts m
  | leax ix => exact leax ix
  | leay ix => exact leay ix
  | leas ix => exact leas ix
  | leau ix => exact leau ix
  | tfr src dst => exact tfr src dst
  | exg src dst => exact exg src dst
  | adda src => exact adda src
  | addb src => exact addb src
  | adca src => exact adca src
  | adcb src => exact adcb src
  | addd src => exact addd src
  | suba src => exact suba src
  | subb src => exact subb src
  | sbca src => exact sbca src
  | sbcb src => exact sbcb src
  | subd src => exact subd src
  | cmpa src => exact cmpa src
  | cmpb src => exact cmpb src
  | cmpd src => exact cmpd src
  | cmpx src => exact cmpx src
  | cmpy src => exact cmpy src
  | cmpu src => exact cmpu src
  | cmps src => exact cmps src
  | neg m => exact neg m
  | nega  => exact nega 
  | negb  => exact negb 
  | inc m => exact inc m
  | inca  => exact inca 
  | incb  => exact incb 
  | dec m => exact dec m
  | deca  => exact deca 
  | decb  => exact decb 
  | tst m => exact tst m
  | tsta  => exact tsta 
  | tstb  => exact tstb 
  | clr m => exact clr m
  | clra  => exact clra 
  | clrb  => exact clrb 
  | mul  => exact mul 
  | daa  => exact daa 
  | sex  => exact sex 
  | abx  => exact abx 
  | anda src => exact anda src
  | andb src => exact andb src
  | ora src => exact ora src
  | orb src => exact orb src
  | eora src => exact eora src
  | eorb src => exact eorb src
  | bita src => exact bita src
  | bitb src => exact bitb src
  | com m => exact com m
  | coma  => exact coma 
  | comb  => exact comb 
  | lsr m => exact lsr m
  | lsra  => exact lsra 
  | lsrb  => exact lsrb 
  | ror m => exact ror m
  | rora  => exact rora 
  | rorb  => exact rorb 
  | asr m => exact asr m
  | asra  => exact asra 
  | asrb  => exact asrb 
  | lsl m => exact lsl m
  | lsla  => exact lsla 
  | lslb  => exact lslb 
  | rol m => exact rol m
  | rola  => exact rola 
  | rolb  => exact rolb 
  | andcc mask => exact andcc mask
  | orcc mask => exact orcc mask
  | bra disp => exact bra disp
  | brn disp => exact brn disp
  | bhi disp => exact bhi disp
  | bls disp => exact bls disp
  | bcc disp => exact bcc disp
  | bcs disp => exact bcs disp
  | bne disp => exact bne disp
  | beq disp => exact beq disp
  | bvc disp => exact bvc disp
  | bvs disp => exact bvs disp
  | bpl disp => exact bpl disp
  | bmi disp => exact bmi disp
  | bge disp => exact bge disp
  | blt disp => exact blt disp
  | bgt disp => exact bgt disp
  | ble disp => exact ble disp
  | lbra disp => exact lbra disp
  | lbrn disp => exact lbrn disp
  | lbhi disp => exact lbhi disp
  | lbls disp => exact lbls disp
  | lbcc disp => exact lbcc disp
  | lbcs disp => exact lbcs disp
  | lbne disp => exact lbne disp
  | lbeq disp => exact lbeq disp
  | lbvc disp => exact lbvc disp
  | lbvs disp => exact lbvs disp
  | lbpl disp => exact lbpl disp
  | lbmi disp => exact lbmi disp
  | lbge disp => exact lbge disp
  | lblt disp => exact lblt disp
  | lbgt disp => exact lbgt disp
  | lble disp => exact lble disp
  | bsr disp => exact bsr disp
  | lbsr disp => exact lbsr disp
  | jsr m => exact jsr m
  | rts  => exact rts 
  | jmp m => exact jmp m
  | pshs list => exact pshs list
  | puls list => exact puls list
  | pshu list => exact pshu list
  | pulu list => exact pulu list
  | swi  => exact swi 
  | swi2  => exact swi2 
  | swi3  => exact swi3 
  | rti  => exact rti 
  | cwai mask => exact cwai mask
  | sync  => exact sync 
  | nop  => exact nop 
  | prefix10  => exact prefix10 
  | prefix11  => exact prefix11 


end Sys2Proof.Laws.Encoding
end

