-- ==== Sys2Proof/Tests/Slice0.lean ====
section
/-! SUPPORT. Tests: the words of the spec's encodings,
  the vectors of `95_test_vectors.md` and the examples of the rules, one
step each; and for every obligation with hypotheses a witness that meets them. Every expected value is the spec's. -/

namespace Sys2Proof.Tests

set_option Elab.async false

open Sys2Proof Sys2Proof.Machine

/-! ### WellFormed refuses -/

/-- An undefined sub-mode code is refused in each operand shape that can hold one (R119). -/
theorem test_undefined_index_refused :
    (Instr.lda (.mem (.idx (.mode .X false (.undefined 7))))).wf = false ∧
    (Instr.ldd (.mem (.idx (.mode .Y true (.undefined 10))))).wf = false ∧
    (Instr.sta (.idx (.mode .U false (.undefined 14)))).wf = false ∧
    (Instr.leax (.mode .S true (.undefined 7))).wf = false ∧
    (Instr.neg (.idx (.mode .X true (.undefined 7)))).wf = false ∧
    (Instr.jmp (.idx (.mode .X false (.undefined 14)))).wf = false ∧
    (Instr.lda (.mem (.idx (.mode .X false .inc1)))).wf = true := by
  decide

/-- An undefined register code is refused as a source and as a destination (R119). -/
theorem test_undefined_register_refused :
    (Instr.tfr (.undefined 6) (.reg .A)).wf = false ∧ (Instr.tfr (.reg .A) (.undefined 15)).wf = false ∧
    (Instr.exg (.undefined 12) (.reg .A)).wf = false ∧ (Instr.exg (.reg .A) (.undefined 7)).wf = false ∧
    (Instr.tfr (.reg .A) (.reg .X)).wf = true := by
  decide

/-! ### Decoding: the words of every `Encodings` line of `42_load_store_transfer.md` to `46_stack_system.md` -/

/-- Each list of bytes decodes to its instruction, and all of it is read. -/
def decodesTo (l : List (List Byte × Instr)) : Bool := l.all fun p => decode p.1 == .instr p.2 p.1.length

theorem test_decode_loads_and_stores_1 : decodesTo [
  ([0x86, 0x5A], .lda (.imm 0x5A)), ([0x96, 0x12], .lda (.mem (.dir 0x12))),
  ([0xA6, 0x84], .lda (.mem (.idx (.mode .X false .zero)))), ([0xB6, 0x50, 0x10], .lda (.mem (.ext 0x5010))),
  ([0xC6, 0x5A], .ldb (.imm 0x5A)), ([0xD6, 0x12], .ldb (.mem (.dir 0x12))),
  ([0xE6, 0x84], .ldb (.mem (.idx (.mode .X false .zero)))), ([0xF6, 0x50, 0x10], .ldb (.mem (.ext 0x5010))),
  ([0xCC, 0x12, 0x34], .ldd (.imm 0x1234)), ([0xDC, 0x12], .ldd (.mem (.dir 0x12))),
  ([0xEC, 0x84], .ldd (.mem (.idx (.mode .X false .zero)))), ([0xFC, 0x50, 0x10], .ldd (.mem (.ext 0x5010))),
  ([0x8E, 0x12, 0x34], .ldx (.imm 0x1234)), ([0x9E, 0x12], .ldx (.mem (.dir 0x12))),
  ([0xAE, 0x84], .ldx (.mem (.idx (.mode .X false .zero)))), ([0xBE, 0x50, 0x10], .ldx (.mem (.ext 0x5010))),
  ([0x10, 0x8E, 0x12, 0x34], .ldy (.imm 0x1234)), ([0x10, 0x9E, 0x12], .ldy (.mem (.dir 0x12))),
  ([0x10, 0xAE, 0x84], .ldy (.mem (.idx (.mode .X false .zero)))),
  ([0x10, 0xBE, 0x50, 0x10], .ldy (.mem (.ext 0x5010))), ([0xCE, 0x12, 0x34], .ldu (.imm 0x1234)),
  ([0xDE, 0x12], .ldu (.mem (.dir 0x12))), ([0xEE, 0x84], .ldu (.mem (.idx (.mode .X false .zero)))),
  ([0xFE, 0x50, 0x10], .ldu (.mem (.ext 0x5010))), ([0x10, 0xCE, 0x12, 0x34],
    .lds (.imm 0x1234))] = true := by decide +kernel

theorem test_decode_loads_and_stores_2 : decodesTo [
  ([0x10, 0xDE, 0x12], .lds (.mem (.dir 0x12))), ([0x10, 0xEE, 0x84], .lds (.mem (.idx (.mode .X false .zero)))),
  ([0x10, 0xFE, 0x50, 0x10], .lds (.mem (.ext 0x5010))), ([0x97, 0x12], .sta (.dir 0x12)),
  ([0xA7, 0x84], .sta (.idx (.mode .X false .zero))), ([0xB7, 0x50, 0x10], .sta (.ext 0x5010)),
  ([0xD7, 0x12], .stb (.dir 0x12)), ([0xE7, 0x84], .stb (.idx (.mode .X false .zero))),
  ([0xF7, 0x50, 0x10], .stb (.ext 0x5010)), ([0xDD, 0x12], .std (.dir 0x12)),
  ([0xED, 0x84], .std (.idx (.mode .X false .zero))), ([0xFD, 0x50, 0x10], .std (.ext 0x5010)),
  ([0x9F, 0x12], .stx (.dir 0x12)), ([0xAF, 0x84], .stx (.idx (.mode .X false .zero))),
  ([0xBF, 0x50, 0x10], .stx (.ext 0x5010)), ([0x10, 0x9F, 0x12], .sty (.dir 0x12)),
  ([0x10, 0xAF, 0x84], .sty (.idx (.mode .X false .zero))), ([0x10, 0xBF, 0x50, 0x10], .sty (.ext 0x5010)),
  ([0xDF, 0x12], .stu (.dir 0x12)), ([0xEF, 0x84], .stu (.idx (.mode .X false .zero))),
  ([0xFF, 0x50, 0x10], .stu (.ext 0x5010)), ([0x10, 0xDF, 0x12], .sts (.dir 0x12)),
  ([0x10, 0xEF, 0x84], .sts (.idx (.mode .X false .zero))), ([0x10, 0xFF, 0x50, 0x10],
    .sts (.ext 0x5010))] = true := by decide +kernel

theorem test_decode_lea_and_transfers : decodesTo [
  ([0x30, 0x84], .leax (.mode .X false .zero)), ([0x31, 0x84], .leay (.mode .X false .zero)),
  ([0x32, 0x84], .leas (.mode .X false .zero)), ([0x33, 0x84], .leau (.mode .X false .zero)),
  ([0x1F, 0x8B], .tfr (.reg .A) (.reg .DP)), ([0x1E, 0x8B], .exg (.reg .A) (.reg .DP))] = true := by decide +kernel

theorem test_decode_adds : decodesTo [
  ([0x8B, 0x5A], .adda (.imm 0x5A)), ([0x9B, 0x12], .adda (.mem (.dir 0x12))),
  ([0xAB, 0x84], .adda (.mem (.idx (.mode .X false .zero)))), ([0xBB, 0x50, 0x10], .adda (.mem (.ext 0x5010))),
  ([0xCB, 0x5A], .addb (.imm 0x5A)), ([0xDB, 0x12], .addb (.mem (.dir 0x12))),
  ([0xEB, 0x84], .addb (.mem (.idx (.mode .X false .zero)))), ([0xFB, 0x50, 0x10], .addb (.mem (.ext 0x5010))),
  ([0x89, 0x5A], .adca (.imm 0x5A)), ([0x99, 0x12], .adca (.mem (.dir 0x12))),
  ([0xA9, 0x84], .adca (.mem (.idx (.mode .X false .zero)))), ([0xB9, 0x50, 0x10], .adca (.mem (.ext 0x5010))),
  ([0xC9, 0x5A], .adcb (.imm 0x5A)), ([0xD9, 0x12], .adcb (.mem (.dir 0x12))),
  ([0xE9, 0x84], .adcb (.mem (.idx (.mode .X false .zero)))), ([0xF9, 0x50, 0x10], .adcb (.mem (.ext 0x5010))),
  ([0xC3, 0x12, 0x34], .addd (.imm 0x1234)), ([0xD3, 0x12], .addd (.mem (.dir 0x12))),
  ([0xE3, 0x84], .addd (.mem (.idx (.mode .X false .zero)))), ([0xF3, 0x50, 0x10],
    .addd (.mem (.ext 0x5010)))] = true := by decide +kernel

theorem test_decode_subtracts : decodesTo [
  ([0x80, 0x5A], .suba (.imm 0x5A)), ([0x90, 0x12], .suba (.mem (.dir 0x12))),
  ([0xA0, 0x84], .suba (.mem (.idx (.mode .X false .zero)))), ([0xB0, 0x50, 0x10], .suba (.mem (.ext 0x5010))),
  ([0xC0, 0x5A], .subb (.imm 0x5A)), ([0xD0, 0x12], .subb (.mem (.dir 0x12))),
  ([0xE0, 0x84], .subb (.mem (.idx (.mode .X false .zero)))), ([0xF0, 0x50, 0x10], .subb (.mem (.ext 0x5010))),
  ([0x82, 0x5A], .sbca (.imm 0x5A)), ([0x92, 0x12], .sbca (.mem (.dir 0x12))),
  ([0xA2, 0x84], .sbca (.mem (.idx (.mode .X false .zero)))), ([0xB2, 0x50, 0x10], .sbca (.mem (.ext 0x5010))),
  ([0xC2, 0x5A], .sbcb (.imm 0x5A)), ([0xD2, 0x12], .sbcb (.mem (.dir 0x12))),
  ([0xE2, 0x84], .sbcb (.mem (.idx (.mode .X false .zero)))), ([0xF2, 0x50, 0x10], .sbcb (.mem (.ext 0x5010))),
  ([0x83, 0x12, 0x34], .subd (.imm 0x1234)), ([0x93, 0x12], .subd (.mem (.dir 0x12))),
  ([0xA3, 0x84], .subd (.mem (.idx (.mode .X false .zero)))), ([0xB3, 0x50, 0x10],
    .subd (.mem (.ext 0x5010)))] = true := by decide +kernel

theorem test_decode_compares_1 : decodesTo [
  ([0x81, 0x5A], .cmpa (.imm 0x5A)), ([0x91, 0x12], .cmpa (.mem (.dir 0x12))),
  ([0xA1, 0x84], .cmpa (.mem (.idx (.mode .X false .zero)))), ([0xB1, 0x50, 0x10], .cmpa (.mem (.ext 0x5010))),
  ([0xC1, 0x5A], .cmpb (.imm 0x5A)), ([0xD1, 0x12], .cmpb (.mem (.dir 0x12))),
  ([0xE1, 0x84], .cmpb (.mem (.idx (.mode .X false .zero)))), ([0xF1, 0x50, 0x10], .cmpb (.mem (.ext 0x5010))),
  ([0x10, 0x83, 0x12, 0x34], .cmpd (.imm 0x1234)), ([0x10, 0x93, 0x12], .cmpd (.mem (.dir 0x12))),
  ([0x10, 0xA3, 0x84], .cmpd (.mem (.idx (.mode .X false .zero)))),
  ([0x10, 0xB3, 0x50, 0x10], .cmpd (.mem (.ext 0x5010))), ([0x8C, 0x12, 0x34], .cmpx (.imm 0x1234)),
  ([0x9C, 0x12], .cmpx (.mem (.dir 0x12)))] = true := by decide +kernel

theorem test_decode_compares_2 : decodesTo [
  ([0xAC, 0x84], .cmpx (.mem (.idx (.mode .X false .zero)))), ([0xBC, 0x50, 0x10], .cmpx (.mem (.ext 0x5010))),
  ([0x10, 0x8C, 0x12, 0x34], .cmpy (.imm 0x1234)), ([0x10, 0x9C, 0x12], .cmpy (.mem (.dir 0x12))),
  ([0x10, 0xAC, 0x84], .cmpy (.mem (.idx (.mode .X false .zero)))),
  ([0x10, 0xBC, 0x50, 0x10], .cmpy (.mem (.ext 0x5010))), ([0x11, 0x83, 0x12, 0x34], .cmpu (.imm 0x1234)),
  ([0x11, 0x93, 0x12], .cmpu (.mem (.dir 0x12))), ([0x11, 0xA3, 0x84], .cmpu (.mem (.idx (.mode .X false .zero)))),
  ([0x11, 0xB3, 0x50, 0x10], .cmpu (.mem (.ext 0x5010))), ([0x11, 0x8C, 0x12, 0x34], .cmps (.imm 0x1234)),
  ([0x11, 0x9C, 0x12], .cmps (.mem (.dir 0x12))), ([0x11, 0xAC, 0x84], .cmps (.mem (.idx (.mode .X false .zero)))),
  ([0x11, 0xBC, 0x50, 0x10], .cmps (.mem (.ext 0x5010)))] = true := by decide +kernel

theorem test_decode_single_operand_arithmetic : decodesTo [
  ([0x00, 0x12], .neg (.dir 0x12)), ([0x60, 0x84], .neg (.idx (.mode .X false .zero))),
  ([0x70, 0x50, 0x10], .neg (.ext 0x5010)), ([0x40], .nega), ([0x50], .negb), ([0x0C, 0x12], .inc (.dir 0x12)),
  ([0x6C, 0x84], .inc (.idx (.mode .X false .zero))), ([0x7C, 0x50, 0x10], .inc (.ext 0x5010)), ([0x4C], .inca),
  ([0x5C], .incb), ([0x0A, 0x12], .dec (.dir 0x12)), ([0x6A, 0x84], .dec (.idx (.mode .X false .zero))),
  ([0x7A, 0x50, 0x10], .dec (.ext 0x5010)), ([0x4A], .deca), ([0x5A], .decb), ([0x0D, 0x12], .tst (.dir 0x12)),
  ([0x6D, 0x84], .tst (.idx (.mode .X false .zero))), ([0x7D, 0x50, 0x10], .tst (.ext 0x5010)), ([0x4D], .tsta),
  ([0x5D], .tstb), ([0x0F, 0x12], .clr (.dir 0x12)), ([0x6F, 0x84], .clr (.idx (.mode .X false .zero))),
  ([0x7F, 0x50, 0x10], .clr (.ext 0x5010)), ([0x4F], .clra), ([0x5F], .clrb)] = true := by decide +kernel

theorem test_decode_multiply_and_adjust : decodesTo [
  ([0x3D], .mul), ([0x19], .daa), ([0x1D], .sex), ([0x3A], .abx)] = true := by decide +kernel

theorem test_decode_logic_1 : decodesTo [
  ([0x84, 0x5A], .anda (.imm 0x5A)), ([0x94, 0x12], .anda (.mem (.dir 0x12))),
  ([0xA4, 0x84], .anda (.mem (.idx (.mode .X false .zero)))), ([0xB4, 0x50, 0x10], .anda (.mem (.ext 0x5010))),
  ([0xC4, 0x5A], .andb (.imm 0x5A)), ([0xD4, 0x12], .andb (.mem (.dir 0x12))),
  ([0xE4, 0x84], .andb (.mem (.idx (.mode .X false .zero)))), ([0xF4, 0x50, 0x10], .andb (.mem (.ext 0x5010))),
  ([0x8A, 0x5A], .ora (.imm 0x5A)), ([0x9A, 0x12], .ora (.mem (.dir 0x12))),
  ([0xAA, 0x84], .ora (.mem (.idx (.mode .X false .zero)))), ([0xBA, 0x50, 0x10], .ora (.mem (.ext 0x5010))),
  ([0xCA, 0x5A], .orb (.imm 0x5A)), ([0xDA, 0x12], .orb (.mem (.dir 0x12))),
  ([0xEA, 0x84], .orb (.mem (.idx (.mode .X false .zero)))), ([0xFA, 0x50, 0x10],
    .orb (.mem (.ext 0x5010)))] = true := by decide +kernel

theorem test_decode_logic_2 : decodesTo [
  ([0x88, 0x5A], .eora (.imm 0x5A)), ([0x98, 0x12], .eora (.mem (.dir 0x12))),
  ([0xA8, 0x84], .eora (.mem (.idx (.mode .X false .zero)))), ([0xB8, 0x50, 0x10], .eora (.mem (.ext 0x5010))),
  ([0xC8, 0x5A], .eorb (.imm 0x5A)), ([0xD8, 0x12], .eorb (.mem (.dir 0x12))),
  ([0xE8, 0x84], .eorb (.mem (.idx (.mode .X false .zero)))), ([0xF8, 0x50, 0x10], .eorb (.mem (.ext 0x5010))),
  ([0x85, 0x5A], .bita (.imm 0x5A)), ([0x95, 0x12], .bita (.mem (.dir 0x12))),
  ([0xA5, 0x84], .bita (.mem (.idx (.mode .X false .zero)))), ([0xB5, 0x50, 0x10], .bita (.mem (.ext 0x5010))),
  ([0xC5, 0x5A], .bitb (.imm 0x5A)), ([0xD5, 0x12], .bitb (.mem (.dir 0x12))),
  ([0xE5, 0x84], .bitb (.mem (.idx (.mode .X false .zero)))), ([0xF5, 0x50, 0x10],
    .bitb (.mem (.ext 0x5010)))] = true := by decide +kernel

theorem test_decode_complement_and_shifts_1 : decodesTo [
  ([0x03, 0x12], .com (.dir 0x12)), ([0x63, 0x84], .com (.idx (.mode .X false .zero))),
  ([0x73, 0x50, 0x10], .com (.ext 0x5010)), ([0x43], .coma), ([0x53], .comb), ([0x04, 0x12], .lsr (.dir 0x12)),
  ([0x64, 0x84], .lsr (.idx (.mode .X false .zero))), ([0x74, 0x50, 0x10], .lsr (.ext 0x5010)), ([0x44], .lsra),
  ([0x54], .lsrb), ([0x06, 0x12], .ror (.dir 0x12)), ([0x66, 0x84], .ror (.idx (.mode .X false .zero))),
  ([0x76, 0x50, 0x10], .ror (.ext 0x5010)), ([0x46], .rora), ([0x56], .rorb)] = true := by decide +kernel

theorem test_decode_complement_and_shifts_2 : decodesTo [
  ([0x07, 0x12], .asr (.dir 0x12)), ([0x67, 0x84], .asr (.idx (.mode .X false .zero))),
  ([0x77, 0x50, 0x10], .asr (.ext 0x5010)), ([0x47], .asra), ([0x57], .asrb), ([0x08, 0x12], .lsl (.dir 0x12)),
  ([0x68, 0x84], .lsl (.idx (.mode .X false .zero))), ([0x78, 0x50, 0x10], .lsl (.ext 0x5010)), ([0x48], .lsla),
  ([0x58], .lslb), ([0x09, 0x12], .rol (.dir 0x12)), ([0x69, 0x84], .rol (.idx (.mode .X false .zero))),
  ([0x79, 0x50, 0x10], .rol (.ext 0x5010)), ([0x49], .rola), ([0x59], .rolb)] = true := by decide +kernel

theorem test_decode_condition_codes : decodesTo [
  ([0x1C, 0x5A], .andcc 0x5A), ([0x1A, 0x5A], .orcc 0x5A)] = true := by decide +kernel

theorem test_decode_short_branches : decodesTo [
  ([0x20, 0xFB], .bra 0xFB), ([0x21, 0xFB], .brn 0xFB), ([0x22, 0xFB], .bhi 0xFB), ([0x23, 0xFB], .bls 0xFB),
  ([0x24, 0xFB], .bcc 0xFB), ([0x25, 0xFB], .bcs 0xFB), ([0x26, 0xFB], .bne 0xFB), ([0x27, 0xFB], .beq 0xFB),
  ([0x28, 0xFB], .bvc 0xFB), ([0x29, 0xFB], .bvs 0xFB), ([0x2A, 0xFB], .bpl 0xFB), ([0x2B, 0xFB], .bmi 0xFB),
  ([0x2C, 0xFB], .bge 0xFB), ([0x2D, 0xFB], .blt 0xFB), ([0x2E, 0xFB], .bgt 0xFB), ([0x2F, 0xFB],
    .ble 0xFB)] = true := by decide +kernel

theorem test_decode_long_branches : decodesTo [
  ([0x16, 0x01, 0x02], .lbra 0x0102), ([0x10, 0x21, 0x01, 0x02], .lbrn 0x0102),
  ([0x10, 0x22, 0x01, 0x02], .lbhi 0x0102), ([0x10, 0x23, 0x01, 0x02], .lbls 0x0102),
  ([0x10, 0x24, 0x01, 0x02], .lbcc 0x0102), ([0x10, 0x25, 0x01, 0x02], .lbcs 0x0102),
  ([0x10, 0x26, 0x01, 0x02], .lbne 0x0102), ([0x10, 0x27, 0x01, 0x02], .lbeq 0x0102),
  ([0x10, 0x28, 0x01, 0x02], .lbvc 0x0102), ([0x10, 0x29, 0x01, 0x02], .lbvs 0x0102),
  ([0x10, 0x2A, 0x01, 0x02], .lbpl 0x0102), ([0x10, 0x2B, 0x01, 0x02], .lbmi 0x0102),
  ([0x10, 0x2C, 0x01, 0x02], .lbge 0x0102), ([0x10, 0x2D, 0x01, 0x02], .lblt 0x0102),
  ([0x10, 0x2E, 0x01, 0x02], .lbgt 0x0102), ([0x10, 0x2F, 0x01, 0x02], .lble 0x0102)] = true := by decide +kernel

theorem test_decode_calls_and_jumps : decodesTo [
  ([0x8D, 0xFB], .bsr 0xFB), ([0x17, 0x01, 0x02], .lbsr 0x0102), ([0x9D, 0x12], .jsr (.dir 0x12)),
  ([0xAD, 0x84], .jsr (.idx (.mode .X false .zero))), ([0xBD, 0x50, 0x10], .jsr (.ext 0x5010)), ([0x39], .rts),
  ([0x0E, 0x12], .jmp (.dir 0x12)), ([0x6E, 0x84], .jmp (.idx (.mode .X false .zero))),
  ([0x7E, 0x50, 0x10], .jmp (.ext 0x5010))] = true := by decide +kernel

theorem test_decode_stack_and_system : decodesTo [
  ([0x34, 0x16], .pshs 0x16), ([0x35, 0x16], .puls 0x16), ([0x36, 0x16], .pshu 0x16), ([0x37, 0x16], .pulu 0x16),
  ([0x3F], .swi), ([0x10, 0x3F], .swi2), ([0x11, 0x3F], .swi3), ([0x3B], .rti), ([0x3C, 0x5A], .cwai 0x5A),
  ([0x13], .sync), ([0x12], .nop)] = true := by decide +kernel

/-- The prefix entries are read as such on page 0 (R490, R491), and only there (R141). -/
theorem test_decode_prefixes :
    decodeEntry .p0 [0x10, 0x8E] = .found .prefix10 0x10 1 ∧ decodeEntry .p0 [0x11] = .found .prefix11 0x11 1 ∧
    decode [0x10, 0x10, 0x8E] = .illegal 0x10 .p10 2 ∧ decode [0x11, 0x10] = .illegal 0x10 .p11 2 := by
  decide +kernel

/-- Every postbyte code of R98, with its extra bytes, on LDA. -/
theorem test_decode_postbytes : decodesTo [
  ([0xA6, 0x80], .lda (.mem (.idx (.mode .X false .inc1)))), ([0xA6, 0xA1], .lda (.mem (.idx (.mode .Y false .inc2)))),
  ([0xA6, 0xC2], .lda (.mem (.idx (.mode .U false .dec1)))), ([0xA6, 0xE3], .lda (.mem (.idx (.mode .S false .dec2)))),
  ([0xA6, 0xB4], .lda (.mem (.idx (.mode .Y true .zero)))), ([0xA6, 0x85], .lda (.mem (.idx (.mode .X false .accB)))),
  ([0xA6, 0x86], .lda (.mem (.idx (.mode .X false .accA)))),
  ([0xA6, 0x87], .lda (.mem (.idx (.mode .X false (.undefined 7))))),
  ([0xA6, 0x88, 0xEF], .lda (.mem (.idx (.mode .X false (.off8 0xEF))))),
  ([0xA6, 0x99, 0x12, 0x34], .lda (.mem (.idx (.mode .X true (.off16 0x1234))))),
  ([0xA6, 0x8A], .lda (.mem (.idx (.mode .X false (.undefined 10))))),
  ([0xA6, 0xCB], .lda (.mem (.idx (.mode .U false .accD)))),
  ([0xA6, 0x8C, 0x10], .lda (.mem (.idx (.mode .X false (.pcr8 0x10))))),
  ([0xA6, 0x9D, 0x12, 0x34], .lda (.mem (.idx (.mode .X true (.pcr16 0x1234))))),
  ([0xA6, 0x8E], .lda (.mem (.idx (.mode .X false (.undefined 14))))),
  ([0xA6, 0x9F, 0xC0, 0x00], .lda (.mem (.idx (.mode .X true (.abs 0xC000))))),
  ([0xA6, 0x10], .lda (.mem (.idx (.off5 .X 0x10)))), ([0xA6, 0x6F], .lda (.mem (.idx (.off5 .S 0x0F))))] = true := by
  decide +kernel

/-- Every register code of R101, and an undefined one. -/
theorem test_decode_register_pairs : decodesTo [
  ([0x1F, 0x01], .tfr (.reg .D) (.reg .X)), ([0x1F, 0x23], .tfr (.reg .Y) (.reg .U)),
  ([0x1F, 0x45], .tfr (.reg .S) (.reg .PC)), ([0x1F, 0x89], .tfr (.reg .A) (.reg .B)),
  ([0x1F, 0xAB], .tfr (.reg .CC) (.reg .DP)), ([0x1E, 0x6F], .exg (.undefined 6) (.undefined 15))] = true := by
  decide +kernel

/-- The words as the opcode table numbers them, and the words placed where a step fetches (log 11, log 12, log 18). -/
theorem test_table_words :
    decodeTableWord 16 0x0086 = some (.lda (.imm 0)) ∧ decodeTableWord 8 0x12 = some .nop ∧
    decodeTableWord 16 0x3F10 = some .swi2 ∧ decodeTableWord 16 0x8E10 = some (.ldy (.imm 0)) ∧
    decodeTableWord 8 0x01 = none ∧ decode (State.fetchWindow (State.reset.withFetchWord 16 0x5A86)) = .instr (.lda (.imm 0x5A)) 2 := by
  decide +kernel

/-! ### One step: the vectors of `95_test_vectors.md` -/

/-- The conventions of `95_test_vectors.md`: registers and memory 0, the bytes at 0x4000, PC there. -/
def start (bytes : List Byte) : State :=
  State.placeBytes { State.construct defaultConfig defaultInit with pc := 0x4000 } 0x4000 bytes

/-- A step answers a next state, and it is as told. -/
def after (s : State) (post : State → Bool) : Bool :=
  match step s with
  | .next t => post t
  | .fault _ => false
  | .refused _ => false

/-- A vector: what is set before the bytes run, and what holds after them. -/
def vector (pre : State → State) (bytes : List Byte) (post : State → Bool) : Bool := after (pre (start bytes)) post

/-- A branch under a CC ends at an address, and changes no CC. -/
def takes (cc : Byte) (bytes : List Byte) (pc : Word) : Bool :=
  vector (fun s => { s with cc := cc }) bytes fun t => t.pc == pc && t.cc == cc

/-- A line of source assembled alone at 0x4000 in a pass, under a direct page: the bytes it deposits, or its error. -/
def assembles (passNo : Nat) (dp : DirectPage) (line : String) (expected : Except AsmError (List Byte)) : Bool :=
  let s : State := State.construct defaultConfig defaultInit
  let s : State := { s with asm := { s.asm with passNo := passNo, directPage := dp } }
  match s.asmLine (' ' :: line.toList), expected with
  | .ok t, .ok bs => t.asm.openBlock.bytes == bs && t.bytesAt 0x4000 bs.length == bs
  | .error e, .error f => e == f
  | _, _ => false

/-- The decoder's line for the bytes at an address. -/
def lists (labels : List Label) (addr : Word) (bytes : List Byte) (len : Nat) (name text : String) : Bool :=
  (State.placeBytes (State.construct defaultConfig defaultInit) addr bytes).decodeOne labels addr.toNat ==
    (len, name.toList, text.toList)

/-- L1 to L4 of `95_test_vectors.md`. -/
theorem test_lda :
    ((vector (fun s => s) [0x86, 0x41] fun t => t.a == 0x41 && t.pc == 0x4002 && t.cc == 0x00) &&
    (vector (fun s => s) [0x86, 0x00] fun t => t.a == 0x00 && t.cc == 0x04) &&
    (vector (fun s => { s with cc := 0x03 }) [0x86, 0x80] fun t => t.a == 0x80 && t.cc == 0x09) &&
    (vector (fun s => State.placeBytes ({ s with dp := 0x40 }) 0x4012 [0x80]) [0x96, 0x12] fun t => t.a == 0x80 &&
      t.cc == 0x08 && t.pc == 0x4002)) = true := by decide +kernel

/-- L7 to L10: increment, decrement, indirection. -/
theorem test_lda_indexed_update :
    ((vector (fun s => State.placeBytes ({ s with x := 0x5000 }) 0x5000 [0x77]) [0xA6, 0x80] fun t => t.a == 0x77 &&
      t.x == 0x5001) &&
    (vector (fun s => State.placeBytes ({ s with x := 0x5001 }) 0x5000 [0x77]) [0xA6, 0x82] fun t => t.a == 0x77 &&
      t.x == 0x5000) &&
    (vector (fun s => (State.placeBytes { s with x := 0x5000 } 0x5000 [0x60, 0x00]).placeBytes 0x6000 [0x99]) [0xA6,
      0x94] fun t => t.a == 0x99 && t.cc == 0x08 && t.x == 0x5000) &&
    (vector (fun s => (State.placeBytes { s with x := 0x5000 } 0x5000 [0x60, 0x00]).placeBytes 0x6000 [0x99]) [0xA6,
      0x91] fun t => t.a == 0x99 && t.x == 0x5002)) = true := by decide +kernel

/-- L5 and R262, R263: a word wraps the top of memory. -/
theorem test_ldb_ldd :
    ((vector (fun s => (s.placeBytes 0xFFFF [0x12]).placeBytes 0x0000 [0x34]) [0xFC, 0xFF, 0xFF] fun t => t.a == 0x12 &&
      t.b == 0x34 && t.pc == 0x4003) &&
    (vector (fun s => s) [0xCC, 0x12, 0x34] fun t => t.a == 0x12 && t.b == 0x34 && t.cc == 0x00) &&
    (vector (fun s => State.placeBytes ({ s with y := 0x2000, b := 0xFE }) 0x1FFE [0x55]) [0xE6, 0xA5] fun t =>
      t.b == 0x55)) = true := by decide +kernel

/-- L6, L18: the load overwrites the increment. -/
theorem test_ldx_ldy :
    ((vector (fun s => State.placeBytes ({ s with x := 0x5000 }) 0x5000 [0x12, 0x34]) [0xAE, 0x81] fun t =>
      t.x == 0x1234 && t.pc == 0x4002) &&
    (vector (fun s => s) [0x10, 0x8E, 0x80, 0x00] fun t => t.y == 0x8000 && t.cc == 0x08 &&
      t.pc == 0x4004)) = true := by decide +kernel

/-- R266, R267. -/
theorem test_ldu_lds :
    ((vector (fun s => s) [0xCE, 0x12, 0x34] fun t => t.u == 0x1234 && t.pc == 0x4003) &&
    (vector (fun s => s) [0x10, 0xCE, 0x00, 0x00] fun t => t.s == 0x0000 && t.cc == 0x04 &&
      t.pc == 0x4004)) = true := by decide +kernel

/-- L19 and the example of R270; one window update. -/
theorem test_sta_stb :
    ((vector (fun s => { s with dp := 0x40, cc := 0x01, windows := [⟨0, 0x4012, 1, 7⟩] }) [0x97, 0x12] fun t =>
      (t.bytesAt 0x4012 1 == [0x00]) && t.cc == 0x05 && t.events.contains (.windowUpdate 7 0x4012 0)) &&
    (vector (fun s => { s with a := 0x05 }) [0xB7, 0x50, 0x10] fun t => (t.bytesAt 0x5010 1 == [0x05]) && t.cc == 0x00) &&
    (vector (fun s => { s with b := 0x80, s := 0x6000 }) [0xE7, 0xE3] fun t => (t.bytesAt 0x5FFE 1 == [0x80]) &&
      t.s == 0x5FFE && t.cc == 0x08)) = true := by decide +kernel

/-- L20, L21: the stored index register is the incremented one. -/
theorem test_std_stx :
    ((vector (fun s => { s with a := 0x12, b := 0x34 }) [0xFD, 0xFF, 0xFF] fun t => (t.bytesAt 0xFFFF 2 == [0x12, 0x34])) &&
    (vector (fun s => { s with x := 0x5000 }) [0xAF, 0x81] fun t => (t.bytesAt 0x5000 2 == [0x50, 0x02]) &&
      t.x == 0x5002)) = true := by decide +kernel

/-- R274 to R276. -/
theorem test_sty_stu_sts :
    ((vector (fun s => { s with y := 0x8001 }) [0x10, 0xBF, 0x50, 0x00] fun t => (t.bytesAt 0x5000 2 == [0x80, 0x01]) &&
      t.cc == 0x08) &&
    (vector (fun s => { s with u := 0x1234 }) [0xDF, 0x10] fun t => (t.bytesAt 0x0010 2 == [0x12, 0x34])) &&
    (vector (fun s => { s with s := 0x0000 }) [0x10, 0xFF, 0x50, 0x00] fun t => (t.bytesAt 0x5000 2 == [0x00, 0x00]) &&
      t.cc == 0x04)) = true := by decide +kernel

/-- L22 to L24. -/
theorem test_lea :
    ((vector (fun s => { s with x := 0x5000 }) [0x30, 0x81] fun t => t.x == 0x5000 && t.cc == 0x00) &&
    (vector (fun s => { s with x := 0x0001 }) [0x30, 0x1F] fun t => t.x == 0x0000 && t.cc == 0x04) &&
    (vector (fun s => { s with s := 0x6000, cc := 0x04 }) [0x32, 0x7E] fun t => t.s == 0x5FFE && t.cc == 0x04) &&
    (vector (fun s => { s with y := 0x0001 }) [0x31, 0x3F] fun t => t.y == 0x0000 && t.cc == 0x04) &&
    (vector (fun s => { s with u := 0x0001 }) [0x33, 0x5F] fun t => t.u == 0x0000 &&
      t.cc == 0x00)) = true := by decide +kernel

/-- L25 to L27, L29. -/
theorem test_tfr :
    ((vector (fun s => { s with x := 0xABCD }) [0x1F, 0x10] fun t => t.a == 0xAB && t.b == 0xCD && t.cc == 0x00) &&
    (vector (fun s => { s with a := 0x50 }) [0x1F, 0x8A] fun t => t.cc == 0x50) &&
    (vector (fun s => { s with x := 0x5000 }) [0x1F, 0x15] fun t => t.pc == 0x5000) &&
    (vector (fun s => s) [0x1F, 0x6B] fun t => t.pc == 0x4002 && t.dp == 0 &&
      t.illegalCount == 1)) = true := by decide +kernel

/-- L28, the example of R291, and a pair of two widths. -/
theorem test_exg :
    ((vector (fun s => { s with a := 0x12, b := 0x34 }) [0x1E, 0x89] fun t => t.a == 0x34 && t.b == 0x12) &&
    (vector (fun s => { s with a := 0x12, b := 0x34, x := 0xABCD }) [0x1E, 0x01] fun t => t.a == 0xAB && t.b == 0xCD &&
      t.x == 0x1234) &&
    (vector (fun s => { s with a := 0x12, x := 0xABCD }) [0x1E, 0x81] fun t => t.a == 0xCD &&
      t.x == 0x0012)) = true := by decide +kernel

/-- A1 to A5. -/
theorem test_adda :
    ((vector (fun s => { s with a := 0x7F }) [0x8B, 0x01] fun t => t.a == 0x80 && t.cc == 0x2A) &&
    (vector (fun s => { s with a := 0x80 }) [0x8B, 0x80] fun t => t.a == 0x00 && t.cc == 0x07) &&
    (vector (fun s => { s with a := 0xFF }) [0x8B, 0x01] fun t => t.a == 0x00 && t.cc == 0x25) &&
    (vector (fun s => { s with a := 0x06 }) [0x8B, 0xFF] fun t => t.a == 0x05 && t.cc == 0x21) &&
    (vector (fun s => s) [0x8B, 0x00] fun t => t.a == 0x00 && t.cc == 0x04)) = true := by decide +kernel

/-- A6, A7, R301, R303. -/
theorem test_adca_addb_adcb :
    ((vector (fun s => { s with a := 0xFF, cc := 0x01 }) [0x89, 0x00] fun t => t.a == 0x00 && t.cc == 0x25) &&
    (vector (fun s => { s with a := 0x7F, cc := 0x01 }) [0x89, 0x00] fun t => t.a == 0x80 && t.cc == 0x2A) &&
    (vector (fun s => { s with b := 0x7F }) [0xCB, 0x01] fun t => t.b == 0x80 && t.cc == 0x2A) &&
    (vector (fun s => { s with b := 0xFF, cc := 0x01 }) [0xC9, 0x00] fun t => t.b == 0x00 &&
      t.cc == 0x25)) = true := by decide +kernel

/-- A15 to A18. -/
theorem test_addd_subd :
    ((vector (fun s => { s with a := 0x7F, b := 0xFF }) [0xC3, 0x00, 0x01] fun t => t.a == 0x80 && t.b == 0x00 &&
      t.cc == 0x0A) &&
    (vector (fun s => { s with a := 0xFF, b := 0xFF }) [0xC3, 0x00, 0x01] fun t => t.a == 0x00 && t.b == 0x00 &&
      t.cc == 0x05) &&
    (vector (fun s => s) [0x83, 0x00, 0x01] fun t => t.a == 0xFF && t.b == 0xFF && t.cc == 0x09) &&
    (vector (fun s => { s with a := 0x80 }) [0x83, 0x00, 0x01] fun t => t.a == 0x7F && t.b == 0xFF &&
      t.cc == 0x02)) = true := by decide +kernel

/-- A8 to A11; H is kept. -/
theorem test_suba :
    ((vector (fun s => { s with cc := 0x20 }) [0x80, 0x01] fun t => t.a == 0xFF && t.cc == 0x29) &&
    (vector (fun s => { s with a := 0x80 }) [0x80, 0x01] fun t => t.a == 0x7F && t.cc == 0x02) &&
    (vector (fun s => s) [0x80, 0x80] fun t => t.a == 0x80 && t.cc == 0x0B) &&
    (vector (fun s => { s with a := 0x41 }) [0x80, 0x41] fun t => t.a == 0x00 && t.cc == 0x04)) = true := by decide +kernel

/-- A12 to A14 and the same on B. -/
theorem test_sbca_subb_sbcb :
    ((vector (fun s => { s with cc := 0x01 }) [0x82, 0x00] fun t => t.a == 0xFF && t.cc == 0x09) &&
    (vector (fun s => { s with cc := 0x01 }) [0x82, 0xFF] fun t => t.a == 0x00 && t.cc == 0x05) &&
    (vector (fun s => { s with a := 0x80, cc := 0x01 }) [0x82, 0x00] fun t => t.a == 0x7F && t.cc == 0x02) &&
    (vector (fun s => { s with b := 0x80 }) [0xC0, 0x01] fun t => t.b == 0x7F && t.cc == 0x02) &&
    (vector (fun s => { s with cc := 0x01 }) [0xC2, 0xFF] fun t => t.b == 0x00 && t.cc == 0x05)) = true := by decide +kernel

/-- A19, A20. -/
theorem test_compare_bytes :
    ((vector (fun s => { s with a := 0x40 }) [0x81, 0x41] fun t => t.a == 0x40 && t.cc == 0x09) &&
    (vector (fun s => { s with b := 0x80 }) [0xC1, 0x01] fun t => t.b == 0x80 && t.cc == 0x02)) = true := by decide +kernel

/-- A21, A22 and the examples of R322, R324, R326. -/
theorem test_compare_words :
    ((vector (fun s => { s with x := 0x5004 }) [0x8C, 0x50, 0x04] fun t => t.cc == 0x04) &&
    (vector (fun s => { s with u := 0x8000 }) [0x11, 0x83, 0x00, 0x01] fun t => t.cc == 0x02 && t.pc == 0x4004) &&
    (vector (fun s => { s with a := 0x12, b := 0x34 }) [0x10, 0x83, 0x12, 0x34] fun t => t.cc == 0x04) &&
    (vector (fun s => s) [0x10, 0x8C, 0x00, 0x01] fun t => t.cc == 0x09) &&
    (vector (fun s => { s with s := 0x6000 }) [0x11, 0x8C, 0x60, 0x00] fun t => t.cc == 0x04)) = true := by decide +kernel

/-- A23, A24 and the example of R330. -/
theorem test_neg :
    ((vector (fun s => { s with a := 0x80 }) [0x40] fun t => t.a == 0x80 && t.cc == 0x0B) &&
    (vector (fun s => { s with cc := 0x01 }) [0x40] fun t => t.a == 0x00 && t.cc == 0x04) &&
    (vector (fun s => s.placeBytes 0x2000 [0x01]) [0x70, 0x20, 0x00] fun t => (t.bytesAt 0x2000 1 == [0xFF]) &&
      t.cc == 0x09) &&
    (vector (fun s => { s with b := 0x01 }) [0x50] fun t => t.b == 0xFF && t.cc == 0x09)) = true := by decide +kernel

/-- A25, A26, A28. -/
theorem test_inc :
    ((vector (fun s => { s with a := 0x7F, cc := 0x01 }) [0x4C] fun t => t.a == 0x80 && t.cc == 0x0B) &&
    (vector (fun s => { s with a := 0xFF }) [0x4C] fun t => t.a == 0x00 && t.cc == 0x04) &&
    (vector (fun s => State.placeBytes ({ s with cc := 0x01 }) 0x2000 [0xFF]) [0x7C, 0x20, 0x00] fun t =>
      (t.bytesAt 0x2000 1 == [0x00]) && t.cc == 0x05) &&
    (vector (fun s => { s with b := 0x7F }) [0x5C] fun t => t.b == 0x80 && t.cc == 0x0A)) = true := by decide +kernel

/-- A27 and the example of R336. -/
theorem test_dec :
    ((vector (fun s => { s with a := 0x80 }) [0x4A] fun t => t.a == 0x7F && t.cc == 0x02) &&
    (vector (fun s => { s with cc := 0x01 }) [0x7A, 0x20, 0x00] fun t => (t.bytesAt 0x2000 1 == [0xFF]) && t.cc == 0x09) &&
    (vector (fun s => { s with b := 0x01 }) [0x5A] fun t => t.b == 0x00 && t.cc == 0x04)) = true := by decide +kernel

/-- A29, A30. -/
theorem test_clr :
    ((vector (fun s => { s with a := 0x55, cc := 0x0B }) [0x4F] fun t => t.a == 0x00 && t.cc == 0x04) &&
    (vector (fun s => State.placeBytes ({ s with cc := 0x2F }) 0x5010 [0x99]) [0x7F, 0x50, 0x10] fun t =>
      (t.bytesAt 0x5010 1 == [0x00]) && t.cc == 0x24) &&
    (vector (fun s => { s with b := 0x55 }) [0x5F] fun t => t.b == 0x00 && t.cc == 0x04)) = true := by decide +kernel

/-- A31, R339, R341. -/
theorem test_tst :
    ((vector (fun s => { s with a := 0x80, cc := 0x03 }) [0x4D] fun t => t.cc == 0x09 && t.a == 0x80) &&
    (vector (fun s => s.placeBytes 0x2000 [0x80]) [0x7D, 0x20, 0x00] fun t => t.cc == 0x08 &&
      (t.bytesAt 0x2000 1 == [0x80])) &&
    (vector (fun s => s) [0x5D] fun t => t.cc == 0x04)) = true := by decide +kernel

/-- A32 to A34. -/
theorem test_mul :
    ((vector (fun s => { s with a := 0xFF, b := 0xFF }) [0x3D] fun t => t.a == 0xFE && t.b == 0x01 && t.cc == 0x00) &&
    (vector (fun s => { s with a := 0x10, b := 0x08, cc := 0x0A }) [0x3D] fun t => t.a == 0x00 && t.b == 0x80 &&
      t.cc == 0x0B) &&
    (vector (fun s => { s with b := 0x55 }) [0x3D] fun t => t.a == 0x00 && t.b == 0x00 &&
      t.cc == 0x04)) = true := by decide +kernel

/-- A35 to A38. -/
theorem test_daa :
    ((vector (fun s => { s with a := 0x9A }) [0x19] fun t => t.a == 0x00 && t.cc == 0x05) &&
    (vector (fun s => { s with a := 0x12, cc := 0x20 }) [0x19] fun t => t.a == 0x18 && t.cc == 0x20) &&
    (vector (fun s => { s with a := 0x0F }) [0x19] fun t => t.a == 0x15 && t.cc == 0x00) &&
    (vector (fun s => { s with a := 0xA0 }) [0x19] fun t => t.a == 0x00 && t.cc == 0x05)) = true := by decide +kernel

/-- A39 to A41. -/
theorem test_sex_abx :
    ((vector (fun s => { s with b := 0x80 }) [0x1D] fun t => t.a == 0xFF && t.b == 0x80 && t.cc == 0x08) &&
    (vector (fun s => { s with a := 0xFF, b := 0x7F }) [0x1D] fun t => t.a == 0x00 && t.cc == 0x00) &&
    (vector (fun s => { s with x := 0xFFF0, b := 0x20, cc := 0x55 }) [0x3A] fun t => t.x == 0x0010 &&
      t.cc == 0x55)) = true := by decide +kernel

/-- G1v to G5v and the same on B. -/
theorem test_logic :
    ((vector (fun s => { s with a := 0xF0, cc := 0x03 }) [0x84, 0x8F] fun t => t.a == 0x80 && t.cc == 0x09) &&
    (vector (fun s => { s with b := 0x55 }) [0xC4, 0xAA] fun t => t.b == 0x00 && t.cc == 0x04) &&
    (vector (fun s => { s with a := 0x01 }) [0x8A, 0x80] fun t => t.a == 0x81 && t.cc == 0x08) &&
    (vector (fun s => { s with a := 0xFF }) [0x88, 0xFF] fun t => t.a == 0x00 && t.cc == 0x04) &&
    (vector (fun s => { s with a := 0x80 }) [0x85, 0x80] fun t => t.a == 0x80 && t.cc == 0x08) &&
    (vector (fun s => { s with b := 0x01 }) [0xCA, 0x80] fun t => t.b == 0x81 && t.cc == 0x08) &&
    (vector (fun s => { s with b := 0xFF }) [0xC8, 0xFF] fun t => t.b == 0x00 && t.cc == 0x04) &&
    (vector (fun s => { s with b := 0x80 }) [0xC5, 0x80] fun t => t.b == 0x80 && t.cc == 0x08)) = true := by decide +kernel

/-- G6v, G7v. -/
theorem test_com :
    ((vector (fun s => { s with a := 0xFF }) [0x43] fun t => t.a == 0x00 && t.cc == 0x05) &&
    (vector (fun s => s.placeBytes 0x2000 [0x55]) [0x73, 0x20, 0x00] fun t => (t.bytesAt 0x2000 1 == [0xAA]) &&
      t.cc == 0x09) &&
    (vector (fun s => { s with b := 0x00 }) [0x53] fun t => t.b == 0xFF && t.cc == 0x09)) = true := by decide +kernel

/-- G8v to G10v and the memory and B forms. -/
theorem test_shift_right :
    ((vector (fun s => { s with a := 0x01, cc := 0x08 }) [0x44] fun t => t.a == 0x00 && t.cc == 0x05) &&
    (vector (fun s => { s with a := 0x02, cc := 0x01 }) [0x46] fun t => t.a == 0x81 && t.cc == 0x08) &&
    (vector (fun s => { s with a := 0x81, cc := 0x02 }) [0x47] fun t => t.a == 0xC0 && t.cc == 0x0B) &&
    (vector (fun s => s.placeBytes 0x2000 [0x01]) [0x74, 0x20, 0x00] fun t => (t.bytesAt 0x2000 1 == [0x00]) &&
      t.cc == 0x05) &&
    (vector (fun s => State.placeBytes ({ s with cc := 0x01 }) 0x2000 [0x01]) [0x76, 0x20, 0x00] fun t =>
      (t.bytesAt 0x2000 1 == [0x80]) && t.cc == 0x09) &&
    (vector (fun s => s.placeBytes 0x2000 [0x81]) [0x77, 0x20, 0x00] fun t => (t.bytesAt 0x2000 1 == [0xC0]) &&
      t.cc == 0x09) &&
    (vector (fun s => { s with b := 0x01 }) [0x54] fun t => t.b == 0x00 && t.cc == 0x05) &&
    (vector (fun s => { s with b := 0x01, cc := 0x01 }) [0x56] fun t => t.b == 0x80 && t.cc == 0x09) &&
    (vector (fun s => { s with b := 0x01 }) [0x57] fun t => t.b == 0x00 && t.cc == 0x05)) = true := by decide +kernel

/-- G11v to G15v and the memory and B forms. -/
theorem test_shift_left :
    ((vector (fun s => { s with a := 0x40 }) [0x48] fun t => t.a == 0x80 && t.cc == 0x0A) &&
    (vector (fun s => { s with a := 0x80 }) [0x48] fun t => t.a == 0x00 && t.cc == 0x07) &&
    (vector (fun s => { s with a := 0xC0 }) [0x48] fun t => t.a == 0x80 && t.cc == 0x09) &&
    (vector (fun s => { s with a := 0x80, cc := 0x01 }) [0x49] fun t => t.a == 0x01 && t.cc == 0x03) &&
    (vector (fun s => { s with b := 0x01 }) [0x58] fun t => t.b == 0x02 && t.cc == 0x00) &&
    (vector (fun s => { s with a := 0x80 }) [0x49] fun t => t.a == 0x00 && t.cc == 0x07) &&
    (vector (fun s => { s with b := 0x80, cc := 0x01 }) [0x59] fun t => t.b == 0x01 && t.cc == 0x03) &&
    (vector (fun s => s.placeBytes 0x2000 [0x40]) [0x78, 0x20, 0x00] fun t => (t.bytesAt 0x2000 1 == [0x80]) &&
      t.cc == 0x0A) &&
    (vector (fun s => State.placeBytes ({ s with cc := 0x01 }) 0x2000 [0x80]) [0x79, 0x20, 0x00] fun t =>
      (t.bytesAt 0x2000 1 == [0x01]) && t.cc == 0x03)) = true := by decide +kernel

/-- G16v, G17v. -/
theorem test_condition_codes :
    ((vector (fun s => { s with cc := 0xD5 }) [0x1C, 0xAF] fun t => t.cc == 0x85) &&
    (vector (fun s => s) [0x1A, 0x50] fun t => t.cc == 0x50)) = true := by decide +kernel

/-- R323: `CMPX ,X++` compares the old X and leaves X + 2; `CMPX ,--X` compares the decremented X (R156, D20),
  `CMPY ,Y++` the incremented Y (log 10). -/
theorem test_compare_own_increment :
    ((vector (fun s => State.placeBytes ({ s with x := 0x5000 }) 0x5000 [0x50, 0x00]) [0xAC, 0x81] fun t =>
      t.cc == 0x04 && t.x == 0x5002) &&
    (vector (fun s => State.placeBytes ({ s with x := 0x5002 }) 0x5000 [0x50, 0x00]) [0xAC, 0x83] fun t =>
      t.cc == 0x04 && t.x == 0x5000) &&
    (vector (fun s => State.placeBytes ({ s with y := 0x5000 }) 0x5000 [0x50, 0x02]) [0x10, 0xAC, 0xA1] fun t =>
      t.cc == 0x04 && t.y == 0x5002)) = true := by decide +kernel

/-- B1 to B4, B10: the ends of the range, and PC wrapping. -/
theorem test_bra_brn :
    ((vector (fun s => s) [0x20, 0xFE] fun t => t.pc == 0x4000) &&
    (vector (fun s => s) [0x20, 0x7F] fun t => t.pc == 0x4081) &&
    (vector (fun s => s) [0x20, 0x80] fun t => t.pc == 0x3F82) &&
    (vector (fun s => s) [0x21, 0x05] fun t => t.pc == 0x4002)) = true := by decide +kernel

/-- B10. -/
theorem test_branch_wraps :
    ((after ((State.placeBytes { State.construct defaultConfig defaultInit with pc := 0xFFFE } 0xFFFE) [0x20,
      0x02]) fun t => t.pc == 0x0002)) = true := by decide +kernel

/-- B7 to B9. -/
theorem test_long_branches :
    ((vector (fun s => { s with cc := 0x04 }) [0x10, 0x27, 0x00, 0x10] fun t => t.pc == 0x4014) &&
    (vector (fun s => s) [0x10, 0x27, 0x00, 0x10] fun t => t.pc == 0x4004) &&
    (vector (fun s => s) [0x16, 0xFF, 0xFD] fun t => t.pc == 0x4000) &&
    (vector (fun s => s) [0x10, 0x21, 0x00, 0x10] fun t => t.pc == 0x4004)) = true := by decide +kernel

/-- Row 1 of the table of conditions after a compare of part 5: short and long forms. -/
theorem test_conditions_1 :
    (([0x22, 0x24, 0x26, 0x29, 0x2A, 0x2D, 0x2F] : List Byte).all (fun o => takes 0x02 [o, 0x10] 0x4012 &&
      takes 0x02 [0x10, o, 0x00, 0x10] 0x4014) &&
      ([0x23, 0x25, 0x27, 0x28, 0x2B, 0x2C, 0x2E] : List Byte).all (fun o => takes 0x02 [o, 0x10] 0x4002 &&
        takes 0x02 [0x10, o, 0x00, 0x10] 0x4004)) = true := by
  decide +kernel

/-- Row 2 of the table of conditions after a compare of part 5: short and long forms. -/
theorem test_conditions_2 :
    (([0x23, 0x25, 0x26, 0x29, 0x2B, 0x2C, 0x2E] : List Byte).all (fun o => takes 0x0B [o, 0x10] 0x4012 &&
      takes 0x0B [0x10, o, 0x00, 0x10] 0x4014) &&
      ([0x22, 0x24, 0x27, 0x28, 0x2A, 0x2D, 0x2F] : List Byte).all (fun o => takes 0x0B [o, 0x10] 0x4002 &&
        takes 0x0B [0x10, o, 0x00, 0x10] 0x4004)) = true := by
  decide +kernel

/-- Row 3 of the table of conditions after a compare of part 5: short and long forms. -/
theorem test_conditions_3 :
    (([0x23, 0x24, 0x27, 0x28, 0x2A, 0x2C, 0x2F] : List Byte).all (fun o => takes 0x04 [o, 0x10] 0x4012 &&
      takes 0x04 [0x10, o, 0x00, 0x10] 0x4014) &&
      ([0x22, 0x25, 0x26, 0x29, 0x2B, 0x2D, 0x2E] : List Byte).all (fun o => takes 0x04 [o, 0x10] 0x4002 &&
        takes 0x04 [0x10, o, 0x00, 0x10] 0x4004)) = true := by
  decide +kernel

/-- Row 4 of the table of conditions after a compare of part 5: short and long forms. -/
theorem test_conditions_4 :
    (([0x22, 0x24, 0x26, 0x28, 0x2A, 0x2C, 0x2E] : List Byte).all (fun o => takes 0x00 [o, 0x10] 0x4012 &&
      takes 0x00 [0x10, o, 0x00, 0x10] 0x4014) &&
      ([0x23, 0x25, 0x27, 0x29, 0x2B, 0x2D, 0x2F] : List Byte).all (fun o => takes 0x00 [o, 0x10] 0x4002 &&
        takes 0x00 [0x10, o, 0x00, 0x10] 0x4004)) = true := by
  decide +kernel

/-- Row 5 of the table of conditions after a compare of part 5: short and long forms. -/
theorem test_conditions_5 :
    (([0x23, 0x25, 0x26, 0x28, 0x2B, 0x2D, 0x2F] : List Byte).all (fun o => takes 0x09 [o, 0x10] 0x4012 &&
      takes 0x09 [0x10, o, 0x00, 0x10] 0x4014) &&
      ([0x22, 0x24, 0x27, 0x29, 0x2A, 0x2C, 0x2E] : List Byte).all (fun o => takes 0x09 [o, 0x10] 0x4002 &&
        takes 0x09 [0x10, o, 0x00, 0x10] 0x4004)) = true := by
  decide +kernel

/-- B11 to B13. -/
theorem test_calls :
    ((vector (fun s => { s with s := 0x6000 }) [0x8D, 0x02] fun t => (t.bytesAt 0x5FFE 2 == [0x40, 0x02]) &&
      t.s == 0x5FFE && t.pc == 0x4004) &&
    (vector (fun s => { s with s := 0x6000 }) [0x17, 0x0F, 0xFD] fun t => (t.bytesAt 0x5FFE 2 == [0x40, 0x03]) &&
      t.s == 0x5FFE && t.pc == 0x5000) &&
    (vector (fun s => { s with s := 0x6000 }) [0xBD, 0x50, 0x00] fun t => (t.bytesAt 0x5FFE 2 == [0x40, 0x03]) &&
      t.s == 0x5FFE && t.pc == 0x5000)) = true := by decide +kernel

/-- B14 to B16. -/
theorem test_rts_jmp :
    ((vector (fun s => State.placeBytes ({ s with s := 0x5FFE }) 0x5FFE [0x40, 0x03]) [0x39] fun t => t.pc == 0x4003 &&
      t.s == 0x6000) &&
    (vector (fun s => State.placeBytes ({ s with x := 0x5000 }) 0x5000 [0x12, 0x34]) [0x6E, 0x94] fun t =>
      t.pc == 0x1234) &&
    (vector (fun s => s) [0x7E, 0x50, 0x00] fun t => t.pc == 0x5000)) = true := by decide +kernel

/-- K1, K3 to K5. -/
theorem test_push :
    ((vector (fun s => { s with s := 0x6000, x := 0x1234, a := 0xAA, b := 0xBB }) [0x34, 0x16] fun t =>
      (t.bytesAt 0x5FFC 4 == [0xAA, 0xBB, 0x12, 0x34]) && t.s == 0x5FFC && t.pc == 0x4002) &&
    (vector (fun s => { s with s := 0x6000, a := 1, b := 2, dp := 3, x := 0x0405, y := 0x0607, u := 0x0809, cc := 0x0A })
      [0x34, 0xFF] fun t => (t.bytesAt 0x5FF4 12 == [0x0A, 0x01, 0x02, 0x03, 0x04, 0x05, 0x06, 0x07, 0x08, 0x09, 0x40,
        0x02]) && t.s == 0x5FF4) &&
    (vector (fun s => { s with u := 0x7000, s := 0x6000 }) [0x36, 0x40] fun t => (t.bytesAt 0x6FFE 2 == [0x60, 0x00]) &&
      t.u == 0x6FFE) &&
    (vector (fun s => { s with s := 0x6000 }) [0x34, 0x00] fun t => t.s == 0x6000 &&
      t.pc == 0x4002)) = true := by decide +kernel

/-- K2, K6, K7. -/
theorem test_pull :
    ((vector (fun s => State.placeBytes ({ s with s := 0x5FFC }) 0x5FFC [0xAA, 0xBB, 0x12, 0x34]) [0x35, 0x16] fun t =>
      t.a == 0xAA && t.b == 0xBB && t.x == 0x1234 && t.s == 0x6000) &&
    (vector (fun s => State.placeBytes ({ s with s := 0x5FFE }) 0x5FFE [0x50, 0x00]) [0x35, 0x80] fun t =>
      t.pc == 0x5000 && t.s == 0x6000) &&
    (vector (fun s => State.placeBytes ({ s with s := 0x5FFF }) 0x5FFF [0x50]) [0x35, 0x01] fun t => t.cc == 0x50 &&
      t.s == 0x6000) &&
    (vector (fun s => State.placeBytes ({ s with u := 0x6FFE }) 0x6FFE [0x60, 0x00]) [0x37, 0x40] fun t =>
      t.s == 0x6000 && t.u == 0x7000)) = true := by decide +kernel

/-- K8 to K10. -/
theorem test_swi :
    ((vector (fun s => State.placeBytes ({ s with s := 0x6000, cc := 0x01 }) 0xFFFA [0x50, 0x00]) [0x3F] fun t =>
      (t.bytesAt 0x5FF4 1 == [0x81]) && (t.bytesAt 0x5FFE 2 == [0x40, 0x01]) && t.s == 0x5FF4 && t.cc == 0xD1 &&
        t.pc == 0x5000) &&
    (vector (fun s => State.placeBytes ({ s with s := 0x6000 }) 0xFFF4 [0x51, 0x00]) [0x10, 0x3F] fun t =>
      (t.bytesAt 0x5FF4 1 == [0x80]) && (t.bytesAt 0x5FFE 2 == [0x40, 0x02]) && t.s == 0x5FF4 && t.cc == 0x80 &&
        t.pc == 0x5100) &&
    (vector (fun s => State.placeBytes ({ s with s := 0x6000 }) 0xFFF2 [0x52, 0x00]) [0x11, 0x3F] fun t =>
      t.cc == 0x80 && t.pc == 0x5200)) = true := by decide +kernel

/-- K11, K12. -/
theorem test_rti :
    ((vector (fun s => State.placeBytes ({ s with s := 0x5FFD }) 0x5FFD [0x00, 0x40, 0x10]) [0x3B] fun t =>
      t.cc == 0x00 && t.pc == 0x4010 && t.s == 0x6000) &&
    (vector (fun s => State.placeBytes ({ s with s := 0x5FF4 }) 0x5FF4 [0x81, 0x01, 0x02, 0x03, 0x04, 0x05, 0x06, 0x07,
      0x08, 0x09, 0x40, 0x01]) [0x3B] fun t => t.cc == 0x81 && t.a == 0x01 && t.b == 0x02 && t.dp == 0x03 &&
        t.x == 0x0405 && t.y == 0x0607 && t.u == 0x0809 && t.pc == 0x4001 && t.s == 0x6000)) = true := by decide +kernel

/-- K13 to K15. -/
theorem test_cwai_sync_nop :
    ((vector (fun s => { s with s := 0x6000, cc := 0x50 }) [0x3C, 0xEF] fun t => t.cc == 0xC0 && t.s == 0x5FF4 &&
      (t.bytesAt 0x5FF4 1 == [0xC0]) && (t.bytesAt 0x5FFE 2 == [0x40, 0x02]) && t.run == .waiting && t.pc == 0x4002) &&
    (vector (fun s => s) [0x13] fun t => t.pc == 0x4001 && t.run == .syncing) &&
    (vector (fun s => s) [0x12] fun t => t.pc == 0x4001 && t.run == .running)) = true := by decide +kernel

/-- L17, K16 to K18. -/
theorem test_illegal_opcodes :
    ((vector (fun s => s) [0xA6, 0x87] fun t => t.a == 0x00 && t.pc == 0x4002 &&
      t.events.contains (.illegalOpcode 0xA6 .p0)) &&
    (vector (fun s => s) [0x10, 0x10] fun t => t.pc == 0x4002 && t.events.contains (.illegalOpcode 0x10 .p10)) &&
    (vector (fun s => s) [0x01] fun t => t.pc == 0x4001 && t.events.contains (.illegalOpcode 0x01 .p0)) &&
    (vector (fun s => s) [0x11, 0x8E] fun t => t.pc == 0x4002 &&
      t.events.contains (.illegalOpcode 0x8E .p11))) = true := by decide +kernel

/-- The vectors of part 7. -/
def vectors (s : State) : State := (((s.placeBytes 0xFFFE [0x40, 0x00]).placeBytes 0xFFFC [0x41,
  0x00]).placeBytes 0xFFF8 [0x42, 0x00]).placeBytes 0xFFF6 [0x43, 0x00]

/-- T1: reset first, its latch alone cleared. -/
theorem test_T1_reset_first :
    (
      let s : State := vectors { State.construct defaultConfig defaultInit with pc := 0x1234, s := 0x6000 }
      let t := (((s.latch .reset).latch .nmi).latch .irq).checkInterrupts
      t.pc == 0x4000 && t.cc == 0x50 && t.s == 0x6000 && t.mem == s.mem && t.latches == ⟨false, true, false,
        true⟩) = true := by
  decide +kernel

/-- T1, the next step. -/
theorem test_T1_nmi_after_reset :
    ((vector (fun s => vectors { s with s := 0x6000, cc := 0x50, latches := ⟨false, true, false, true⟩ })
      [0x12] fun t => (t.bytesAt 0x5FF4 1 == [0xD0]) && (t.bytesAt 0x5FFE 2 == [0x40, 0x01]) && t.s == 0x5FF4 &&
        t.cc == 0xD0 && t.pc == 0x4100 && t.latches == ⟨false, false, false, true⟩)) = true := by decide +kernel

/-- T2, T3: taken and masked. -/
theorem test_T2_T3_irq :
    ((vector (fun s => vectors { s with s := 0x6000, a := 0x11, latches := ⟨false, false, false, true⟩ })
      [0x12] fun t => (t.bytesAt 0x5FF4 2 == [0x80, 0x11]) && (t.bytesAt 0x5FFE 2 == [0x40, 0x01]) && t.cc == 0x90 &&
        t.pc == 0x4200 && t.latches == .clear) &&
    (vector (fun s => vectors { s with s := 0x6000, cc := 0x10, latches := ⟨false, false, false, true⟩ })
      [0x12] fun t => t.pc == 0x4001 && t.s == 0x6000 && t.cc == 0x10 && t.latches == ⟨false, false, false,
        true⟩)) = true := by decide +kernel

/-- T4, T5. -/
theorem test_T4_T5_firq :
    ((vector (fun s => vectors { s with s := 0x6000, cc := 0x80, latches := ⟨false, false, true, false⟩ })
      [0x12] fun t => (t.bytesAt 0x5FFD 3 == [0x00, 0x40, 0x01]) && t.s == 0x5FFD && t.cc == 0x50 && t.pc == 0x4300 &&
        t.latches == .clear) &&
    (vector (fun s => vectors { s with s := 0x6000, latches := ⟨false, false, true, true⟩ }) [0x12] fun t =>
      t.cc == 0x50 && t.pc == 0x4300 && t.latches == ⟨false, false, false, true⟩)) = true := by decide +kernel

/-- T6: idle, a masked wake without a fetch. -/
theorem test_T6_sync :
    ((vector (fun s => vectors { s with cc := 0x10, run := .syncing }) [0x4C] fun t => t.pc == 0x4000 &&
      t.run == .syncing && t.a == 0x00) &&
    (vector (fun s => vectors { s with cc := 0x10, run := .syncing, latches := ⟨false, false, false, true⟩ })
      [0x4C] fun t => t.pc == 0x4000 && t.run == .running && t.a == 0x00 && t.latches == ⟨false, false, false,
        true⟩)) = true := by decide +kernel

/-- T7: a masked IRQ does not end the wait; FIRQ does, without stacking. -/
theorem test_T7_cwai :
    ((vector (fun s => vectors { s with cc := 0x90, s := 0x5FF4, run := .waiting, latches := ⟨false, false, false, true⟩ })
      [0x12] fun t => t.run == .waiting && t.pc == 0x4000) &&
    (vector (fun s => vectors { s with cc := 0x90, s := 0x5FF4, run := .waiting, latches := ⟨false, false, true, true⟩ })
      [0x12] fun t => t.cc == 0xD0 && t.pc == 0x4300 && t.s == 0x5FF4 && t.run == .running && t.latches == ⟨false,
        false, false, true⟩)) = true := by decide +kernel

/-- T8. -/
theorem test_T8_stop :
    (
      let s : State := { State.construct defaultConfig defaultInit with pc := 0x4002, s := 0x5FF4, run := .waiting }
      s.stop == { s with run := .running }) = true := by
  decide +kernel

/-- E1 to E6, E37 of `95_test_vectors.md`. -/
theorem test_asm_direct :
    (assembles 3 ⟨0, false⟩ "LDA #$41" (.ok [0x86, 0x41]) &&
      assembles 3 ⟨0x40, true⟩ "LDA $4012" (.ok [0x96, 0x12]) &&
      assembles 3 ⟨0, false⟩ "LDA $4012" (.ok [0xB6, 0x40, 0x12]) &&
      assembles 3 ⟨0x40, true⟩ "LDA >$4012" (.ok [0xB6, 0x40, 0x12]) &&
      assembles 3 ⟨0, false⟩ "LDA <$12" (.ok [0x96, 0x12]) &&
      assembles 3 ⟨0x40, true⟩ "LDA <$4112" (.error .directOutOfRange) &&
      assembles 3 ⟨0, false⟩ "LDA $12" (.ok [0xB6, 0x00, 0x12])) = true := by
  decide +kernel

/-- E7 to E10. -/
theorem test_asm_offsets :
    (assembles 3 ⟨0, false⟩ "LDA -16,X" (.ok [0xA6, 0x10]) &&
      assembles 3 ⟨0, false⟩ "LDA 15,X" (.ok [0xA6, 0x0F]) &&
      assembles 3 ⟨0, false⟩ "LDA -17,X" (.ok [0xA6, 0x88, 0xEF]) &&
      assembles 3 ⟨0, false⟩ "LDA 16,X" (.ok [0xA6, 0x88, 0x10]) &&
      assembles 3 ⟨0, false⟩ "LDA ,X" (.ok [0xA6, 0x84]) &&
      assembles 3 ⟨0, false⟩ "LDA 0,X" (.ok [0xA6, 0x00]) &&
      assembles 3 ⟨0, false⟩ "LDA 128,X" (.ok [0xA6, 0x89, 0x00, 0x80]) &&
      assembles 3 ⟨0, false⟩ "LDA -129,X" (.ok [0xA6, 0x89, 0xFF, 0x7F]) &&
      assembles 3 ⟨0, false⟩ "LDA <1,X" (.ok [0xA6, 0x88, 0x01]) &&
      assembles 3 ⟨0, false⟩ "LDA >1,X" (.ok [0xA6, 0x89, 0x00, 0x01])) = true := by
  decide +kernel

/-- E11 to E19. -/
theorem test_asm_indexed :
    (assembles 3 ⟨0, false⟩ "LDD [16,U]" (.ok [0xEC, 0xD8, 0x10]) &&
      assembles 3 ⟨0, false⟩ "LDD [,U]" (.ok [0xEC, 0xD4]) &&
      assembles 3 ⟨0, false⟩ "LDD [0,U]" (.ok [0xEC, 0xD8, 0x00]) &&
      assembles 3 ⟨0, false⟩ "LDA ,X+" (.ok [0xA6, 0x80]) &&
      assembles 3 ⟨0, false⟩ "LDA ,--X" (.ok [0xA6, 0x83]) &&
      assembles 3 ⟨0, false⟩ "LDA [,X++]" (.ok [0xA6, 0x91]) &&
      assembles 3 ⟨0, false⟩ "LDA [,--Y]" (.ok [0xA6, 0xB3]) &&
      assembles 3 ⟨0, false⟩ "LDA [,X+]" (.error .invalidAddressingMode) &&
      assembles 3 ⟨0, false⟩ "LDA A,X" (.ok [0xA6, 0x86]) &&
      assembles 3 ⟨0, false⟩ "LDA B,Y" (.ok [0xA6, 0xA5]) &&
      assembles 3 ⟨0, false⟩ "LDA D,U" (.ok [0xA6, 0xCB]) &&
      assembles 3 ⟨0, false⟩ "LEAS -2,S" (.ok [0x32, 0x7E]) &&
      assembles 3 ⟨0, false⟩ "STB ,--S" (.ok [0xE7, 0xE3]) &&
      assembles 3 ⟨0, false⟩ "LDA [$C000]" (.ok [0xA6, 0x9F, 0xC0, 0x00]) &&
      assembles 3 ⟨0, false⟩ "LEAX $4010,PCR" (.ok [0x30, 0x8C, 0x0D]) &&
      assembles 3 ⟨0, false⟩ "LDA $5000,PCR" (.ok [0xA6, 0x8D, 0x0F, 0xFC])) = true := by
  decide +kernel

/-- E20 to E25, E32. -/
theorem test_asm_branches :
    (assembles 3 ⟨0, false⟩ "BRA $4000" (.ok [0x20, 0xFE]) &&
      assembles 3 ⟨0, false⟩ "BRA $4081" (.ok [0x20, 0x7F]) &&
      assembles 3 ⟨0, false⟩ "BRA $4082" (.error .branchOutOfRange) &&
      assembles 3 ⟨0, false⟩ "BRA $3F82" (.ok [0x20, 0x80]) &&
      assembles 3 ⟨0, false⟩ "BRA $3F81" (.error .branchOutOfRange) &&
      assembles 1 ⟨0, false⟩ "BRA FWD" (.ok [0x20, 0x00]) &&
      assembles 2 ⟨0, false⟩ "BRA FWD" (.error .unresolvedLabel) &&
      assembles 3 ⟨0, false⟩ "LBRA $4000" (.ok [0x16, 0xFF, 0xFD]) &&
      assembles 3 ⟨0, false⟩ "LBEQ $4014" (.ok [0x10, 0x27, 0x00, 0x10]) &&
      assembles 3 ⟨0, false⟩ "BHS $4000" (.ok [0x24, 0xFE]) &&
      assembles 3 ⟨0, false⟩ "LBLO $4000" (.ok [0x10, 0x25, 0xFF, 0xFC])) = true := by
  decide +kernel

/-- E26 to E32. -/
theorem test_asm_registers :
    (assembles 3 ⟨0, false⟩ "PSHS A,B,X" (.ok [0x34, 0x16]) &&
      assembles 3 ⟨0, false⟩ "PSHS X,B,A" (.ok [0x34, 0x16]) &&
      assembles 3 ⟨0, false⟩ "PSHS D" (.ok [0x34, 0x06]) &&
      assembles 3 ⟨0, false⟩ "PULS PC,D" (.ok [0x35, 0x86]) &&
      assembles 3 ⟨0, false⟩ "PSHS S" (.error .ownStack) &&
      assembles 3 ⟨0, false⟩ "PULU U" (.error .ownStack) &&
      assembles 3 ⟨0, false⟩ "PSHU S" (.ok [0x36, 0x40]) &&
      assembles 3 ⟨0, false⟩ "TFR A,DP" (.ok [0x1F, 0x8B]) &&
      assembles 3 ⟨0, false⟩ "EXG D,X" (.ok [0x1E, 0x01]) &&
      assembles 3 ⟨0, false⟩ "TFR A,X" (.error .invalidRegisterPair) &&
      assembles 3 ⟨0, false⟩ "LDY #$8000" (.ok [0x10, 0x8E, 0x80, 0x00]) &&
      assembles 3 ⟨0, false⟩ "CMPU #1" (.ok [0x11, 0x83, 0x00, 0x01]) &&
      assembles 3 ⟨0, false⟩ "LDA #256" (.error .outOfRangeConstant) &&
      assembles 3 ⟨0, false⟩ "LDA #-1" (.ok [0x86, 0xFF]) &&
      assembles 3 ⟨0, false⟩ "ASLA" (.ok [0x48]) &&
      assembles 3 ⟨0, false⟩ "LDA #%1010+$10-1" (.ok [0x86, 0x19]) &&
      assembles 3 ⟨0, false⟩ "XYZ 1" (.error .invalidInstruction)) = true := by
  decide +kernel

/-- E33, E34 (the string of FCC is in double quotes). -/
theorem test_asm_data :
    (assembles 3 ⟨0, false⟩ "FCB 1,2,'A" (.ok [0x01, 0x02, 0x41]) &&
      assembles 3 ⟨0, false⟩ "FDB $1234" (.ok [0x12, 0x34]) &&
      assembles 3 ⟨0, false⟩ "FCC \"Hi\"" (.ok [0x48, 0x69]) &&
      assembles 3 ⟨0, false⟩ "FILL $FF,3" (.ok [0xFF, 0xFF, 0xFF])) = true := by
  decide +kernel

/-- The three-pass example of part 8: the bytes of the second and third pass, and the start address. -/
theorem test_asm_three_passes :
    (
      let t := (State.construct defaultConfig defaultInit).assemble [
        "        ORG  $4000".toList, "START   LDA  #$41        ; 4000".toList, "        BNE  DONE".toList,
        "        STA  DATA".toList, "DONE    BRA  DONE".toList, "DATA    RMB  1".toList]
      t.bytesAt 0x4000 9 == [0x86, 0x41, 0x26, 0x03, 0xB7, 0x40, 0x09, 0x20, 0xFE] && t.asm.startAddress == some 0x4000 &&
        t.asm.phase == .done) = true := by
  decide +kernel

/-- D1v to D6v. -/
theorem test_list_constants :
    (lists [] 0x4000 [0x86, 0x41] 2 "LDA" "#$41" &&
      lists [] 0x4000 [0x96, 0x12] 2 "LDA" "<$12" &&
      lists [] 0x4000 [0xB7, 0x50, 0x10] 3 "STA" "$5010" &&
      lists [⟨"BUF".toList, 0x5010⟩] 0x4000 [0xB7, 0x50, 0x10] 3 "STA" "BUF" &&
      lists [] 0x4000 [0xA6, 0x10] 2 "LDA" "-16,X" &&
      lists [] 0x4000 [0xA6, 0x0F] 2 "LDA" "15,X" &&
      lists [] 0x4000 [0xA6, 0x00] 2 "LDA" "0,X" &&
      lists [] 0x4000 [0xA6, 0x88, 0xEF] 3 "LDA" "-17,X" &&
      lists [] 0x4000 [0xA6, 0x88, 0x01] 3 "LDA" "<1,X" &&
      lists [] 0x4000 [0xA6, 0x89, 0x00, 0x01] 4 "LDA" ">1,X" &&
      lists [] 0x4000 [0xA6, 0x89, 0x00, 0x80] 4 "LDA" "128,X") = true := by
  decide +kernel

/-- D7v to D11v. -/
theorem test_list_indexed :
    (lists [] 0x4000 [0xEC, 0xD8, 0x10] 3 "LDD" "[16,U]" &&
      lists [] 0x4000 [0xA6, 0x94] 2 "LDA" "[,X]" &&
      lists [] 0x4000 [0xA6, 0x91] 2 "LDA" "[,X++]" &&
      lists [] 0x4000 [0x30, 0x8C, 0x0D] 3 "LEAX" "$4010,PCR" &&
      lists [] 0x4000 [0xA6, 0x8D, 0x00, 0x0C] 4 "LDA" ">$4010,PCR" &&
      lists [] 0x4000 [0xA6, 0x9F, 0xC0, 0x00] 4 "LDA" "[$C000]" &&
      lists [] 0x4000 [0xA6, 0x87] 2 "LDA" "???") = true := by
  decide +kernel

/-- D12v to D20v. -/
theorem test_list_others :
    (lists [] 0x4009 [0x26, 0xFB] 2 "BNE" "$4006" &&
      lists [] 0x4000 [0x16, 0x01, 0x00] 3 "LBRA" "$4103" &&
      lists [] 0x4000 [0x10, 0x27, 0x00, 0x10] 4 "LBEQ" "$4014" &&
      lists [] 0x4000 [0x1F, 0x8B] 2 "TFR" "A,DP" &&
      lists [] 0x4000 [0x1F, 0x6B] 2 "TFR" "???" &&
      lists [] 0x4000 [0x34, 0x16] 2 "PSHS" "A,B,X" &&
      lists [] 0x4000 [0x36, 0x40] 2 "PSHU" "S" &&
      lists [] 0x4000 [0x35, 0xFF] 2 "PULS" "CC,A,B,DP,X,Y,U,PC" &&
      lists [] 0x4000 [0x34, 0x00] 2 "PSHS" "" &&
      lists [] 0x4000 [0x01] 1 "???" "$01" &&
      lists [] 0x4000 [0x10, 0x10] 2 "???" "$10" &&
      lists [] 0x4000 [0x11, 0x8E] 2 "???" "$8E" &&
      lists [] 0x4000 [0x48] 1 "LSLA" "" &&
      lists [] 0x4000 [0x24, 0xFE] 2 "BCC" "$4000" &&
      lists [] 0x4000 [0x10, 0x3F] 2 "SWI2" "") = true := by
  decide +kernel

/-- R530, R545: a quoted string, a comma in it or not; a character literal, the comma itself among them (log 21). -/
theorem test_asm_literals :
    (assembles 3 ⟨0, false⟩ "FCC 'A,B'" (.ok [0x41, 0x2C, 0x42]) &&
      assembles 3 ⟨0, false⟩ "FCC 'X-Y'" (.ok [0x58, 0x2D, 0x59]) &&
      assembles 3 ⟨0, false⟩ "FCB 'A,'B+1" (.ok [0x41, 0x43]) &&
      assembles 3 ⟨0, false⟩ "FDB ',,1" (.ok [0x00, 0x2C, 0x00, 0x01]) &&
      assembles 3 ⟨0, false⟩ "FILL ',,3" (.ok [0x2C, 0x2C, 0x2C]) &&
      assembles 3 ⟨0, false⟩ "CONST EQ='=" (.ok [])) = true := by
  decide +kernel

/-- Register names in lower case (log 21). -/
theorem test_asm_lower_case :
    (assembles 3 ⟨0, false⟩ "pshs a,b" (.ok [0x34, 0x06]) &&
      assembles 3 ⟨0, false⟩ "tfr a,dp" (.ok [0x1F, 0x8B]) &&
      assembles 3 ⟨0, false⟩ "lda b,y" (.ok [0xA6, 0xA5])) = true := by
  decide +kernel

/-- R520: the operand is split at its last comma, whatever stands before it. -/
theorem test_asm_last_comma :
    (assembles 3 ⟨0, false⟩ "LDA '," (.error .malformedOperand) &&
      assembles 3 ⟨0, false⟩ "LDA ',,X" (.ok [0xA6, 0x88, 0x2C]) &&
      assembles 3 ⟨0, false⟩ "LDA #'," (.ok [0x86, 0x2C])) = true := by
  decide +kernel

/-- R545: a double quote inside a double-quoted string is a character of it (log 21). -/
theorem test_asm_quotes :
    (assembles 3 ⟨0, false⟩ "FCC \"A\"B\",1" (.ok [0x41, 0x22, 0x42, 0x01])) = true := by
  decide +kernel

/-- R569: the label of an address in brackets, never of the direct form. -/
theorem test_list_mode_f :
    (lists [⟨"BUF".toList, 0x1234⟩] 0x4000 [0xA6, 0x9F, 0x12, 0x34] 4 "LDA" "[BUF]" &&
      lists [⟨"BUF".toList, 0x1234⟩] 0x4000 [0xA6, 0x8F, 0x12, 0x34] 4 "LDA" "$1234") = true := by
  decide +kernel

/-- R501: the program counter after a deposit is the address after its last byte, masked. -/
theorem test_asm_deposit_wraps :
    (
      let s : State := State.construct { defaultConfig with memBits := 8, asmInitialPc := 0x00FF } defaultInit
      match s.asmLine " FCB 1".toList with
      | .ok t => t.asm.programCounter == 0 && t.peek 0x00FF == 1
      | .error _ => false) = true := by
  decide +kernel

/-- R560, D48: the walk stops past 0xFFFF, whatever its end. -/
theorem test_list_stops_at_the_top :
    ((State.placeBytes State.reset 0xFFFE [0x12, 0x12]).disassemble [] 0xFFFE 0x20000 9).map (·.address) =
      [0xFFFE, 0xFFFF] := by
  decide +kernel

/-- R641: `ntck` is false after a reset serviced in the step of a taken branch. -/
theorem test_reset_clears_ntck :
    vector (fun s => { s with latches := ⟨true, false, false, false⟩ }) [0x20, 0xFE]
      (fun t => t.pc == 0 && t.cc == 0x50 && t.ntck == false) = true := by
  decide +kernel

/-! ### Devices (R68, D39) and custom tables (R37, R175) -/

/-- A device at 0x5000 (owner 7) that latches IRQ, then stores at 0x6000, where owner 8 answers with a store at 0x6001. -/
def board (s : State) : State :=
  { s with
    windows := [⟨0, 0x5000, 1, 7⟩, ⟨1, 0x6000, 1, 8⟩]
    cfg := { s.cfg with devices := [⟨0, 7, some 0x5000, none, 1, [.latch .irq, .poke 0x6000 0x22]⟩,
      ⟨1, 8, none, some 0x22, 2, [.poke 0x6001 0x33]⟩] } }

/-- An owner pokes and latches from inside `update`; the interrupt it latched is entered in the same step (R140). -/
theorem test_device_update :
    (vector (fun s => board { s with a := 0x11, s := 0x4800 }) [0xB7, 0x50, 0x00] fun t =>
      t.bytesAt 0x5000 1 == [0x11] && t.bytesAt 0x6000 2 == [0x22, 0x33] && t.deviceState == 2 && t.cc == 0x90 &&
      t.bytesAt 0x47FE 2 == [0x40, 0x03] && t.latches == .clear &&
      t.events.contains (.windowUpdate 7 0x5000 0x11) && t.events.contains (.windowUpdate 8 0x6000 0x22)) = true := by
  decide +kernel

/-- A table with a record of its own, one whose program is `err`, and a prefix. -/
def ownTable : OpcodeTable := .custom [
  ⟨"MOVAB".toList, .imm8, .p0, 0x87, [.ld1 .A, .st1 .B, .pcb .r1, .st1 .A]⟩, ⟨"TRAP".toList, .inh, .p0, 0x01, [.err]⟩,
  ⟨"P10".toList, .pager, .p0, 0x10, [.page]⟩, ⟨"CLRX".toList, .inh, .p10, 0x4F, [.alu .clr8, .st1 .X]⟩]

def custom (s : State) : State := { s with cfg := { s.cfg with opcodeTable := ownTable } }

/-- A record's own program runs, after a prefix record too; the program `err` is `IllegalOpcode` (R175). -/
theorem test_custom_table :
    (vector (fun s => custom { s with a := 0x11 }) [0x87, 0x22] (fun t =>
      t.a == 0x22 && t.b == 0x11 && t.pc == 0x4002 && t.illegalCount == 0) &&
    vector (fun s => custom { s with x := 0x1234 }) [0x10, 0x4F] (fun t => t.x == 0 && t.pc == 0x4002 && t.page == .p0) &&
    vector custom [0x01] (fun t => t.events.contains (.illegalOpcode 0x01 .p0) && t.pc == 0x4001 && t.illegalCount == 1) &&
    vector custom [0x12] (fun t => t.events.contains (.illegalOpcode 0x12 .p0) && t.pc == 0x4001)) = true := by
  decide +kernel

/-- The loop of R140 repeats while a prefix record's program has not chosen a page: here until A has counted up to 0. -/
theorem test_custom_prefix_loop :
    (vector (fun s => { s with
        a := 0xFD, x := 0x1234
        cfg := { s.cfg with opcodeTable := .custom [
          ⟨"P10".toList, .pager, .p0, 0x10, [.ld1 .A, .alu .inc8, .st1 .A, .chk .Z, .qf, .page]⟩,
          ⟨"CLRX".toList, .inh, .p10, 0x4F, [.alu .clr8, .st1 .X]⟩] } }) [0x10, 0x10, 0x10, 0x4F] fun t =>
      t.a == 0 && t.x == 0 && t.pc == 0x4004 && t.illegalCount == 0) = true := by
  decide +kernel

/-- The encoder and the decoder read the same records (R503, R561). -/
theorem test_custom_names :
    ((match (custom (State.construct defaultConfig defaultInit)).asmLine " movab #$22".toList with
      | .ok t => t.bytesAt 0x4000 2 == [0x87, 0x22]
      | .error _ => false) &&
    (custom (start [0x87, 0x22])).decodeOne [] 0x4000 == (2, "MOVAB".toList, "#$22".toList)) = true := by
  decide +kernel

/-! ### Memory -/

/-- The example of R65, and the canonical form: writing what an unlisted address reads as removes the entry. -/
theorem test_memory :
    (
      let s := State.reset.memWrite16 0x2000 0x1234
      s.peek 0x2000 == 0x12 && s.peek 0x2001 == 0x34 && s.mem == [(0x2000, 0x12), (0x2001, 0x34)] &&
      (s.memWrite16 0x2000 0).mem == [] && (State.reset.push16 .S 0x1234).s == 0xFFFE) = true := by
  decide +kernel

/-! ### A witness of the hypotheses of every obligation that has some -/

open Sys2Proof.Claims

/-- A state with memory, registers and flags that are not zero. -/
def busy : State :=
  State.placeBytes { State.construct defaultConfig defaultInit with
    pc := 0x4000, a := 0x81, b := 0x7F, x := 0xFFFF, y := 0x0001, u := 0x7000, s := 0x0001, dp := 0x40, cc := 0x25 }
    0x4000 [0x8B, 0x80]

theorem witness_DecodeEncodeRoundTrip :
    (Instr.lda (.mem (.idx (.mode .S true (.abs 0xFFFF))))).wf = true ∧
    (Instr.lda (.mem (.idx (.mode .S true (.abs 0xFFFF))))).selectsPage = .p0 ∧
    (Instr.cmps (.imm 0xFFFF)).wf = true ∧ (Instr.cmps (.imm 0xFFFF)).selectsPage = .p0 := by decide

theorem witness_EncodeDecodeRoundTrip :
    decode [0x11, 0xAC, 0x9F, 0xFF, 0xFF] = .instr (.cmps (.mem (.idx (.mode .X true (.abs 0xFFFF))))) 5 ∧
    decode [0x12] = .instr .nop 1 := by decide +kernel

/-- The default table, as itself and as a custom one. -/
theorem witness_DefaultTable : DefaultTable busy ∧
    DefaultTable { busy with cfg := { defaultConfig with opcodeTable := .custom OpcodeTable.standard.entries } } := ⟨rfl,
      rfl⟩

theorem witness_StepRunsDecoded :
    busy.run = .running ∧ decode (stream busy) = .instr (.adda (.imm 0x80)) 2 ∧
    (custom (start [0x87, 0x22])).cfg.opcodeTable = ownTable ∧
    ((ownTable.entries.find? fun e => e.opcode == (start [0x87]).peek 0x4000 &&
      e.page == .p0).map (·.format)) = some .imm8 := by
  decide +kernel

theorem witness_StepIllegalOpcode :
    (start [0x01]).run = .running ∧ decode (stream (start [0x01])) = .illegal 0x01 .p0 1 ∧
    decode (stream (start [0x10, 0x10])) = .illegal 0x10 .p10 2 ∧ (start [0x01]).cfg.illegalPolicy = .proceed ∧
    ((ownTable.entries.find? fun e => e.opcode == 0x01 && e.page == .p0).map (·.microcode)) = some [.err] ∧
    (ownTable.entries.find? fun e => e.opcode == 0x12 && e.page == .p0) = none := by decide +kernel

theorem witness_UndefinedPostbyteRaises :
    (Instr.sta (.idx (.mode .X false (.undefined 7)))).wf = false ∧ (Instr.exg (.undefined 6) (.reg .A)).wf = false ∧
    busy.cfg.illegalPolicy = .proceed := by decide +kernel

theorem witness_WellFormedCompletes : (Instr.rti).wf = true ∧ (Instr.jmp (.idx (.mode .S true .dec2))).wf = true := by decide

/-- The policy that stops at the first event stops here; the default policy does not; the tables of both kinds have only such
prefix records. -/
theorem witness_NothingFaults :
    (start [0x01]).cfg.illegalPolicy = .proceed ∧
    (∀ e ∈ OpcodeTable.standard.entries, e.format = .pager → e.page = .p0 ∧ e.microcode = [.page]) ∧
    (∀ e ∈ ownTable.entries, e.format = .pager → e.page = .p0 ∧ e.microcode = [.page]) ∧
    exec (.tfr (.undefined 6) (.reg .A)) { busy with cfg := { defaultConfig with illegalPolicy := .haltAfter 1 } } =
      .fault (.illegalOpcode busy.op busy.page) :=
  ⟨by decide +kernel, by decide +kernel, by decide +kernel, rfl⟩

/-- The invariant holds in a state with memory, and its step answers. -/
theorem witness_StepKeepsInv : busy.Inv ∧ after busy (fun t => t.a == 0x01) = true :=
  ⟨⟨by decide +kernel, by decide +kernel, rfl⟩, by decide +kernel⟩

/-- The step of a state in which no window belongs to a device, a window that only observes among them. -/
theorem witness_StepKeepsParameters :
    busy.deviceFree = true ∧ ({ busy with windows := [⟨0, 0x5000, 1, 9⟩] } : State).deviceFree = true ∧
    (board busy).deviceFree = false ∧
    after busy (fun _ => true) = true ∧ after (start [0x01]) (fun t => t.illegalCount == 1) = true := by decide +kernel

/-- Waiting with nothing serviceable; Syncing with a masked latch; Waiting and Syncing with a serviceable one. -/
theorem witness_StepIdle :
    let w : State := { busy with run := .waiting, cc := 0x50, latches := ⟨false, false, true, true⟩ }
    let y : State := { w with run := .syncing }
    (∀ k ∈ [IntKind.reset, .nmi, .firq, .irq], serviceable w k = false) ∧ w.run = .waiting ∧
    (∀ k ∈ [IntKind.reset, .nmi, .firq, .irq], serviceable y k = false) ∧ y.run = .syncing ∧ y.latches.any = true ∧
    serviceable { w with cc := 0x10 } .firq = true ∧ serviceable { y with cc := 0x40 } .irq = true ∧
    serviceable { y with cc := 0x40 } .firq = false := by decide +kernel

/-- An instruction that writes no PC, a branch not taken, a call, and a marker of either length. -/
theorem witness_DecoderAgreesOnBoundaries :
    busy.run = .running ∧ decode (stream busy) = .instr (.adda (.imm 0x80)) 2 ∧ busy.cfg.illegalPolicy = .proceed ∧
    transfers (.adda (.imm 0x80)) = false ∧ busy.latches = .clear ∧ busy.deviceFree = true ∧
    decode (stream (start [0x27, 0x10])) = .instr (.beq 0x10) 2 ∧ (start [0x27, 0x10]).flag .Z = false ∧
    decode (stream (start [0x17, 0x00, 0x10])) = .instr (.lbsr 0x0010) 3 ∧
    decode (stream (start [0x01])) = .illegal 0x01 .p0 1 ∧ decode (stream (start [0x11, 0x8E])) = .illegal 0x8E .p11 2 := by
  decide +kernel

theorem witness_NotTaken : NotTaken (start [0x27, 0x10]) (.beq 0x10) :=
  .inl ⟨(.beq, fun _ z _ _ => z), by simp [shortBranches], 0x10, rfl, by decide +kernel⟩

theorem witness_CheckServicesHighestPriority :
    serviceable { busy with cc := 0x10, latches := ⟨false, false, true, true⟩ } .firq = true ∧
    serviceable { busy with cc := 0x10, latches := ⟨false, false, true, true⟩ } .nmi = false ∧
    serviceable { busy with cc := 0x10, latches := ⟨false, false, true, true⟩ } .reset = false ∧
    (∀ k ∈ [IntKind.reset, .nmi, .firq, .irq],
      serviceable { busy with cc := 0x50, latches := ⟨false, false, true, true⟩ } k = false) := by
  decide +kernel

/-- Canonical memory that is not empty: the hypothesis of `ServiceEntry`, `ResetService`, `PokeStoresAndNotifies`,
`WordsAreBigEndian`, `FillStopsAtTheTop`, `CallsPushReturnAddress`, `PushRegisterList`, `SoftwareInterrupts` and
`ClearAndWait`; with a kind that is not reset, and with both sides of the frame's choice; the clauses for windows without a
device and the general ones have both a state. -/
theorem witness_ServiceEntry :
    busy.deviceFree = true ∧ Memory.wf (board busy).mem = true ∧ (board busy).deviceFree = false ∧ IntKind.firq ≠ .reset ∧ Memory.wf busy.mem = true ∧ busy.mem ≠ [] ∧
    ({ busy with run := .waiting } : State).frameOf .irq = .none ∧ busy.frameOf .firq = .pcAndCc := by decide +kernel

theorem witness_ResetService : Memory.wf busy.mem = true ∧ busy.mem ≠ [] := by decide +kernel

theorem witness_ReturnUndoesEntry :
    Memory.wf busy.mem = true ∧ 12 ≤ busy.memSize ∧ busy.deviceFree = true ∧ (busy.run = .waiting → busy.cfg.cwaiPrestack = false) := by decide +kernel

theorem witness_PokeStoresAndNotifies : busy.deviceFree = true ∧ Memory.wf busy.mem = true ∧ busy.mask 0xFFFF = 0xFFFF := by decide +kernel

theorem witness_WordsAreBigEndian :
    Memory.wf busy.mem = true ∧ busy.mask (0xFFFF + 1) = 0 ∧ busy.mask (0xFFFF + 1) ≠ busy.mask 0xFFFF := by decide +kernel

theorem witness_FillStopsAtTheTop : Memory.wf busy.mem = true ∧ (busy.fill 0xFFFF [1, 2]).2 = 65536 := by decide +kernel

/-- A register on each side of every clause. -/
theorem witness_RegisterFile : Reg.D ≠ .PC ∧ Reg.PC ≠ .CC ∧ Reg.A ∉ parts .PC ∧ Reg.A ∈ parts .D := by decide

/-- Each operand form, and what it resolves to. -/
theorem witness_AddressingFrame :
    (busy.resolveEA (.dir 0xFF)).map (·.ea) = some 0x40FF ∧ (busy.resolveEA (.ext 0xFFFF)).map (·.ea) = some 0xFFFF ∧
    (busy.resolveEA (.idx (.off5 .X 0x10))).map (·.ea) = some 0xFFEF ∧
    (busy.resolveEA (.idx (.mode .X false .inc1))).map (·.x) = some 0x0000 := by decide +kernel

/-- Well-formed operands: the hypothesis of `LoadByte`, `AddByte`, `SubtractByte` and `LogicByte`. -/
theorem witness_LoadByte :
    (Src8.imm 0x80).wf = true ∧ (Src8.mem (.idx (.mode .X true (.pcr16 0xFFFF)))).wf = true ∧
    operand8 busy (.mem (.ext 0x4000)) ≠ none := by decide +kernel

/-- Well-formed operands: the hypothesis of `LoadWord`, `WordArithmeticOnD` and `CompareIndexRegister`; the last with the
compared register's own auto-increment. -/
theorem witness_LoadWord :
    (Src16.imm 0x8000).wf = true ∧ (Src16.mem (.idx (.mode .X false .inc2))).wf = true ∧
    operand16 busy (.mem (.idx (.mode .X false .inc2))) ≠ none := by decide +kernel

/-- A well-formed destination and canonical memory: the hypotheses of `StoreByte`, `StoreWord` and `UnaryOnMemory`. -/
theorem witness_StoreByte :
    (MemOp.ext 0xFFFF).wf = true ∧ (MemOp.idx (.mode .S false .dec2)).wf = true ∧ Memory.wf busy.mem = true := by decide +kernel

theorem witness_StoreWord : (MemOp.idx (.mode .X false .inc2)).wf = true ∧ Memory.wf busy.mem = true := by decide +kernel

theorem witness_LoadEffectiveAddress : (Index.mode .X false .inc1).wf = true ∧ (Index.off5 .S 0x10).wf = true := by decide

/-- Register pairs on both sides of every clause: alias-free, equal, D with each half, PC and CC. -/
theorem witness_TransferAndExchange :
    Reg.CC ≠ .PC ∧ Reg.X ∉ parts .D ∧ (∀ r ∈ parts .X, r ∉ parts .D) ∧ ¬ (∀ r ∈ parts .D,
      r ∉ parts .A) ∧ Reg.D ≠ .CC ∧ Reg.D ≠ .PC := by decide

theorem witness_AddByte : (Src8.imm 0xFF).wf = true := by decide

theorem witness_SubtractByte : (Src8.mem (.dir 0x00)).wf = true := by decide

theorem witness_WordArithmeticOnD : (Src16.mem (.dir 0xFF)).wf = true := by decide

/-- Every reading of the compared register: X before its own auto-increment and after its auto-decrement,
  S after its own. -/
theorem witness_CompareIndexRegister :
    (Src16.mem (.idx (.mode .X false .inc2))).wf = true ∧ increments (.mem (.idx (.mode .X false .inc2))) = true ∧
    (Src16.mem (.idx (.mode .X true .dec2))).wf = true ∧ increments (.mem (.idx (.mode .X true .dec2))) = false ∧
    (Src16.mem (.idx (.mode .S false .inc2))).wf = true := by decide

theorem witness_UnaryOnMemory : (MemOp.dir 0x00).wf = true ∧ Memory.wf busy.mem = true := by decide +kernel

theorem witness_TestAndClear : (MemOp.idx (.mode .X true .inc1)).wf = true ∧ Memory.wf busy.mem = true := by decide +kernel

theorem witness_DecimalAdjust : (99 : Nat) < 100 ∧ (0 : Nat) < 100 ∧ (State.setReg busy .A 0x99).a = bcd 99 := by decide +kernel

theorem witness_LogicByte : (Src8.mem (.ext 0x0000)).wf = true := by decide

theorem witness_CallsPushReturnAddress : Memory.wf busy.mem = true ∧ (MemOp.idx (.mode .S true .inc2)).wf = true := by decide +kernel

theorem witness_JumpAndReturn : (MemOp.idx (.mode .X true (.abs 0xFFFE))).wf = true := by decide

theorem witness_PushRegisterList : Memory.wf busy.mem = true ∧ (listBytes .S 0xFF busy).length = 12 ∧ listBytes .U 0 busy = [] := by
  decide +kernel

theorem witness_SoftwareInterrupts : Memory.wf busy.mem = true ∧ (frameBytes .entire busy).length = 12 := by decide +kernel

theorem witness_ClearAndWait : Memory.wf busy.mem = true ∧ busy.cfg.cwaiPrestack = true := by decide +kernel

/-- At 0x4000 in pass 2, with nothing defined. -/
def plain : AsmEnv := ⟨.standard, 2, 0x4000, ⟨0x40, true⟩, []⟩

/-- Whether an expression has a value. -/
def evaluates (env : AsmEnv) (text : String) (v : Option Int) : Bool :=
  match evalExpr env false text.toList with
  | .ok r => r == v
  | .error _ => false

/-- A short and a long row; a table of another name; targets at the end of the range and past it; a target with no value in
pass 1. -/
theorem witness_BranchEncoding :
    (rowOf .bra .rel8).isSome = true ∧ (rowOf .lbeq .rel16).isSome = true ∧
    OpcodeTable.form .standard (.core .bra) .inh = none ∧ OpcodeTable.form .standard (.core .bra) .rel8 = some [0x20] ∧
    OpcodeTable.form .standard (.core .lbeq) .rel8 = none ∧
    OpcodeTable.form .standard (.core .lbeq) .rel16 = some [0x10, 0x27] ∧
    OpcodeTable.form (.custom [⟨"hop".toList, .rel8, .p11, 0x20, []⟩]) (.own "HOP".toList) .rel8 = some [0x11, 0x20] ∧
    evaluates plain "$4081" (some 0x4081) = true ∧ Machine.sdiff 0x4081 (0x4000 + 2) = 127 ∧
    Machine.sdiff 0x4082 (0x4000 + 2) = 128 ∧ evaluates { plain with passNo := 1 } "FWD" none = true := by decide +kernel

/-- A branch back as far as it reaches, BSR and a conditional one,
  and a state in which it is taken where it was assembled. -/
theorem witness_AssembledBranchReachesTarget :
    plain.table = .standard ∧ 2 ≤ plain.passNo ∧ hasFormat plain (.core .bsr) .rel8 = true ∧
    hasFormat plain (.core .bne) .rel8 = true ∧ evaluates plain "$3F82" (some 0x3F82) = true ∧
    (match encodeInstr plain (.core .bsr) "$3F82".toList, encodeInstr plain (.core .bne) "$3F82".toList with
      | .ok p, .ok q => p == [0x8D, 0x80] && q == [0x26, 0x80]
      | _, _ => false) = true ∧
    ({ busy with pc := 0x4002, cc := 0 } : State).pc = plain.programCounter + 2 ∧
    ({ busy with pc := 0x4002, cc := 0 } : State).flag .Z = false := by decide +kernel

/-- An address on the page of `SETDP`, and one off it. -/
theorem witness_DirectPageChoice :
    OpcodeTable.form .standard (.core .ldy) .dir = some [0x10, 0x9E] ∧
    OpcodeTable.form .standard (.core .lda) .ext = some [0xB6] ∧ "$40FF".toList.head? ≠ some '<' ∧
    "$40FF".toList.head? ≠ some '>' ∧ evaluates plain "$40FF" (some 0x40FF) = true ∧
    evaluates plain "$4100" (some 0x4100) = true := by decide +kernel

/-- No window, a window that only observes, and a board with devices: both sides of the clause. -/
theorem witness_EncoderLeavesEngine :
    (State.reset.asmBegin [" FCB 1".toList]).deviceFree = true ∧ (board State.reset).deviceFree = false := by decide +kernel

theorem witness_AssemblyErrorStops :
    let s := State.reset.asmBegin [" XYZ 1".toList]
    s.asm.phase = .running ∧ s.asm.source[s.asm.cursor]? = some " XYZ 1".toList ∧
    (match s.asmLine " XYZ 1".toList with
      | .error e => decide (e = .invalidInstruction)
      | .ok _ => false) = true := by decide +kernel

end Sys2Proof.Tests
end

section
/-! PROOF. The register file (R20 to R24): what a read sees after a write of the same and of another register. -/

namespace Sys2Proof.Machine

open Sys2Proof.Claims

/-- The low byte of a word as a word again is the word masked to eight bits (R8, R21). -/
theorem zext16_loByte (v : Word) : zext16 (loByte v) = v &&& 0x00FF := by
  apply BitVec.eq_of_toNat_eq
  have hmod : (zext16 (loByte v)).toNat = v.toNat % 256 := by
    simp [zext16, loByte, BitVec.extractLsb'_toNat]
    omega
  have hmask : (v &&& 0x00FF).toNat = v.toNat % 256 := Nat.and_two_pow_sub_one_eq_mod v.toNat 8
  rw [hmod, hmask]

/-- The value of `hi:lo` as a number (R6, R23). -/
theorem toNat_wordOf (hi lo : Byte) : (wordOf hi lo).toNat = 256 * hi.toNat + lo.toNat := by
  have happ : (wordOf hi lo).toNat = hi.toNat <<< 8 ||| lo.toNat := BitVec.toNat_append hi lo
  rw [happ, ← Nat.shiftLeft_add_eq_or_of_lt lo.isLt, Nat.shiftLeft_eq]
  omega

/-- A register reads back what was written, masked to its width (R21, R23). -/
theorem State.reg_setReg_same (s : State) (r : Reg) (v : Word) : (s.setReg r v).reg r = narrow r v := by
  cases r with
  | A | B | DP | CC => exact zext16_loByte v
  | D => exact wordOf_hiByte_loByte v
  | X | Y | U | S | PC => rfl

/-- A stored register that a write does not name reads as before: D is the only view, and it names A and B (R20, R23). -/
theorem State.reg_setReg_other (s : State) {r q : Reg} (v : Word) (hq : q ≠ .D) (h : q ∉ parts r) :
    (s.setReg r v).reg q = s.reg q := by
  cases r <;> cases q <;> first | rfl | exact absurd rfl hq | exact absurd (by decide) h

/-- PC is written by its own name alone. -/
theorem State.setReg_pc_of_ne (s : State) {r : Reg} (v : Word) (h : r ≠ .PC) : (s.setReg r v).pc = s.pc := by
  cases r with
  | PC => exact absurd rfl h
  | _ => rfl

/-- CC is written by its own name alone. -/
theorem State.setReg_cc_of_ne (s : State) {r : Reg} (v : Word) (h : r ≠ .CC) : (s.setReg r v).cc = s.cc := by
  cases r with
  | CC => exact absurd rfl h
  | _ => rfl

/-- Only a write of PC notifies (R24, R36). -/
theorem State.setReg_events (s : State) (r : Reg) (v : Word) :
    (s.setReg r v).events = if r = .PC then s.events ++ [.pcNotify v] else s.events := by
  cases r <;> rfl

/-- Settles O24: each clause is the rule of the register file that names it. -/
theorem registerFile : Obligations.RegisterFile := fun s r v =>
  ⟨s.reg_setReg_same r v, fun q hq hn => s.reg_setReg_other v (by rintro rfl; simp at hq) hn, s.setReg_pc_of_ne v,
    s.setReg_cc_of_ne v, toNat_wordOf s.a s.b, s.setReg_events r v⟩

end Sys2Proof.Machine
end

section
/-! PROOF. What a step counts (R600): an instruction, a microcode program and a cycle raise `IllegalOpcode` at most once, as the
last thing they do; and no operation of the engine takes back an event of the command it runs in (log 13). -/

namespace Sys2Proof.Machine

/-! ### Operations that raise nothing -/

/-- What every operation that raises nothing keeps: the count of `IllegalOpcode` events, and the events so far, which it can
only add to. -/
structure Grows (s t : State) : Prop where
  count : t.illegalCount = s.illegalCount
  events : s.events <+: t.events

/-- An operation that raises nothing. -/
abbrev GrowsOp (f : State → State) : Prop := ∀ s, Grows s (f s)

/-- A change of fields that `Grows` does not speak of. -/
theorem Grows.same {s t : State} (hc : t.illegalCount = s.illegalCount := by rfl) (he : t.events = s.events := by rfl) :
    Grows s t :=
  ⟨hc, he ▸ List.prefix_rfl⟩

theorem Grows.refl (s : State) : Grows s s := Grows.same

theorem Grows.trans {s t u : State} (h : Grows s t) (k : Grows t u) : Grows s u :=
  ⟨k.count.trans h.count, h.events.trans k.events⟩

theorem Grows.emit (s : State) (e : Event) : Grows s (s.emit e) := ⟨rfl, List.prefix_append _ _⟩

theorem Grows.setPc (s : State) (v : Word) : Grows s (s.setPc v) := ⟨rfl, List.prefix_append _ _⟩

theorem Grows.setReg (s : State) (r : Reg) (v : Word) : Grows s (s.setReg r v) := by
  cases r with
  | PC => exact Grows.setPc s v
  | _ => exact Grows.same

/-- A store and the updates inside it only add events, however deep they go (R62, R68). -/
theorem Grows.poke (s : State) (p : Word) (v : Byte) : Grows s (s.poke p v) :=
  ⟨rfl, Bus.poke_induction (P := fun b => s.events <+: b.events) (fun _ _ _ _ h => h)
    (fun _ _ h => h.trans (List.prefix_append _ _)) (fun _ _ h => h) (fun _ _ h => h) _ _ _ _ (s.mask_lt p)
    List.prefix_rfl⟩

theorem Grows.advance (s : State) (n : Nat) : Grows s (s.advance n) := by
  induction n generalizing s with
  | zero => exact Grows.refl s
  | succ n ih => exact (Grows.setPc s (s.pc + 1)).trans (ih _)

theorem Grows.foldl {α : Type} (f : State → α → State) (h : ∀ s x, Grows s (f s x)) (l : List α) (s : State) :
    Grows s (l.foldl f s) := by
  induction l generalizing s with
  | nil => exact Grows.refl s
  | cons x l ih => exact (h s x).trans (ih _)

theorem Grows.stor8 (s : State) : Grows s s.stor8 := Grows.poke s _ _

theorem Grows.stor16 (s : State) : Grows s s.stor16 := (Grows.poke s _ _).trans (Grows.poke _ _ _)

theorem Grows.drawn (s : State) : Grows s s.drawn := by
  rw [State.drawn_eq]
  exact Grows.same

theorem Grows.setScratch (s : State) (d : Scratch) (v : Word) : Grows s (s.setScratch d v) := by
  cases d <;> exact Grows.same

/-- An ALU primitive raises nothing: most change `r1` and CC at most, and some of these a draw (log 28). -/
theorem Grows.alu (op : AluOp) : GrowsOp fun s => s.alu op := by
  intro s
  cases op with
  | sub8 | sbc8 | sub16 | neg8 | lsr8 | asr8 | lsl8 | daa => exact Grows.trans Grows.same (Grows.drawn _)
  | _ => exact Grows.same

/-- The operation of TFR and EXG: a register into each of two others (R290, R291). -/
theorem Grows.exchange (s : State) (p q : Reg) : Grows s ((((s.ld1 p).ld2 q).st2 p).st1 q) :=
  Grows.trans (t := (s.ld1 p).ld2 q) Grows.same ((Grows.setReg _ _ _).trans (Grows.setReg _ _ _))

theorem Grows.transfer (s : State) (p q : Reg) : Grows s ((s.ld1 p).st1 q) :=
  Grows.trans (t := s.ld1 p) Grows.same (Grows.setReg _ _ _)

/-! ### Stacks and branches -/

theorem Grows.push8 (s : State) (sp : Stack) (v : Byte) : Grows s (s.push8 sp v) :=
  (Grows.setReg s _ _).trans (Grows.poke _ _ _)

theorem Grows.push16 (s : State) (sp : Stack) (v : Word) : Grows s (s.push16 sp v) :=
  (Grows.push8 s sp _).trans (Grows.push8 _ sp _)

theorem Grows.pushReg (s : State) (sp : Stack) (r : Reg) : Grows s (s.pushReg sp r) := by
  cases r with
  | A | B | DP | CC => exact Grows.push8 s sp _
  | D | X | Y | U | S | PC => exact Grows.push16 s sp _

theorem Grows.pull8 (s : State) (sp : Stack) : Grows s (s.pull8 sp).2 := Grows.setReg s _ _

theorem Grows.pull16 (s : State) (sp : Stack) : Grows s (s.pull16 sp).2 :=
  (Grows.pull8 s sp).trans (Grows.pull8 _ sp)

theorem Grows.pullReg (s : State) (sp : Stack) (r : Reg) : Grows s (s.pullReg sp r) := by
  have byte : ∀ v, Grows s ((s.pull8 sp).2.setReg r v) := fun v => (Grows.pull8 s sp).trans (Grows.setReg _ r v)
  have word : ∀ v, Grows s ((s.pull16 sp).2.setReg r v) := fun v => (Grows.pull16 s sp).trans (Grows.setReg _ r v)
  cases r with
  | A | B | DP | CC => exact byte _
  | D | X | Y | U | S | PC => exact word _

theorem Grows.pushList (s : State) (sp : Stack) (pb : Byte) : Grows s (s.pushList sp pb) :=
  Grows.foldl _ (fun s r => Grows.pushReg s sp r) _ s

theorem Grows.pullList (s : State) (sp : Stack) (pb : Byte) : Grows s (s.pullList sp pb) := by
  have h : Grows s ((selectedRegs sp pb).foldl (fun s r => s.pullReg sp r) s) :=
    Grows.foldl _ (fun s r => Grows.pullReg s sp r) _ s
  unfold State.pullList
  split
  · exact h.trans Grows.same
  · exact h

theorem Grows.jump (s : State) : Grows s s.jump := (Grows.setPc s s.ea).trans Grows.same

theorem Grows.branchIf (s : State) (c : ChkCond) : Grows s (s.branchIf c) := by
  unfold State.branchIf State.qf
  split
  · exact Grows.trans (t := s.chk c) Grows.same (Grows.jump _)
  · exact Grows.same

theorem Grows.branchIfNot (s : State) (c : ChkCond) : Grows s (s.branchIfNot c) := by
  unfold State.branchIfNot State.qt
  split
  · exact Grows.same
  · exact Grows.trans (t := s.chk c) Grows.same (Grows.jump _)

theorem Grows.call (s : State) : Grows s s.call := (Grows.push16 s .S s.pc).trans (Grows.jump _)

/-! ### Exceptions -/

theorem Grows.pushFrame (s : State) (f : Stacking) : Grows s (s.pushFrame f) := by
  cases f with
  | none => exact Grows.refl s
  | pcAndCc =>
    exact Grows.trans (t := s.flags { e := false }) Grows.same ((Grows.pushReg _ .S .PC).trans (Grows.pushReg _ .S .CC))
  | entire => exact Grows.trans (t := s.flags { e := true }) Grows.same (Grows.pushList _ .S 0xFF)

theorem Grows.enter (s : State) (frame : Stacking) (i f : Bool) (vector : Word) : Grows s (s.enter frame i f vector) :=
  ((Grows.pushFrame s frame).trans (Grows.same (t := (s.pushFrame frame).setMasks i f))).trans (Grows.setPc _ _)

theorem Grows.service (s : State) (k : IntKind) : Grows s (s.service k) := by
  rw [State.service_eq]
  exact (Grows.enter s _ _ _ _).trans Grows.same

theorem Grows.checkInterrupts (s : State) : Grows s s.checkInterrupts := by
  have awake : Grows s (if s.run = .syncing ∧ s.latches.any then { s with run := .running } else s) := by
    split
    · exact Grows.same
    · exact Grows.refl s
  rcases s.checkInterrupts_cases with ⟨k, h, -⟩ | ⟨h, -⟩
  · rw [h]
    exact awake.trans (Grows.service _ k)
  · rw [h]
    exact awake

theorem Grows.swi (s : State) (masks : Bool) (vector : Word) : Grows s (s.swi masks vector) :=
  (Grows.enter s .entire masks masks vector).trans Grows.same

theorem Grows.setNtck (s : State) : Grows s { s with ntck := true } := Grows.same

theorem Grows.rti (s : State) : Grows s s.rti := by
  have cc := Grows.pullReg s .S .CC
  unfold State.rti
  simp only
  split
  · have regs := cc.trans (Grows.foldl _ (fun s r => Grows.pullReg s .S r) [Reg.A, .B, .DP, .X, .Y, .U] _)
    exact (regs.trans (Grows.pullReg _ .S .PC)).trans (Grows.setNtck _)
  · exact (cc.trans (Grows.pullReg _ .S .PC)).trans (Grows.setNtck _)

theorem Grows.wait (s : State) : Grows s s.wait := Grows.same

theorem Grows.cwai (s : State) (mask : Byte) : Grows s (if s.cfg.cwaiPrestack
    then State.pushFrame { s with cc := s.cc &&& mask } .entire else { s with cc := s.cc &&& mask }).wait := by
  refine Grows.trans ?_ (Grows.wait _)
  split
  · exact Grows.trans (t := { s with cc := s.cc &&& mask }) Grows.same (Grows.pushFrame _ .entire)
  · exact Grows.same

/-! ### Operands -/

theorem State.Addressed.grows {s t : State} (h : s.Addressed t) : Grows s t := by
  rw [h]
  exact Grows.same

theorem Grows.indx {s u : State} {ix : Index} (h : s.indx ix = some u) : Grows s u := (State.indx_addressed h).grows

theorem Grows.resolveEA {s u : State} {m : MemOp} (h : s.resolveEA m = some u) : Grows s u :=
  (State.resolveEA_addressed h).grows

/-- A fetched operand: the addressing, then an operation that raises nothing. -/
theorem Grows.mapEA {s u : State} {m : MemOp} {f : State → State} (hf : GrowsOp f)
    (h : (s.resolveEA m).map f = some u) : Grows s u := by
  obtain ⟨w, hw, rfl⟩ := Option.map_eq_some_iff.mp h
  exact (Grows.resolveEA hw).trans (hf w)

theorem Grows.operand8r1 {s u : State} {x : Src8} (h : s.operand8r1 x = some u) : Grows s u := by
  cases x with
  | imm v => cases h; exact Grows.same
  | mem m => exact Grows.mapEA (f := State.ftch8r1) (fun _ => Grows.same) h

theorem Grows.operand8r2 {s u : State} {x : Src8} (h : s.operand8r2 x = some u) : Grows s u := by
  cases x with
  | imm v => cases h; exact Grows.same
  | mem m => exact Grows.mapEA (f := State.ftch8r2) (fun _ => Grows.same) h

theorem Grows.operand16r1 {s u : State} {x : Src16} (h : s.operand16r1 x = some u) : Grows s u := by
  cases x with
  | imm v => cases h; exact Grows.same
  | mem m => exact Grows.mapEA (f := State.ftch16r1) (fun _ => Grows.same) h

theorem Grows.operand16r2 {s u : State} {x : Src16} (h : s.operand16r2 x = some u) : Grows s u := by
  cases x with
  | imm v => cases h; exact Grows.same
  | mem m => exact Grows.mapEA (f := State.ftch16r2) (fun _ => Grows.same) h

/-! ### Instructions: one answer, or one `IllegalOpcode` -/

/-- Everything an instruction or a program can answer: a next state with nothing raised, or `raise IllegalOpcode` as the last
thing it does (R119, R600). -/
inductive Answers (s : State) (o : Outcome) : Prop where
  | next (t : State) (ho : o = .next t) (h : Grows s t)
  | raise (u : State) (ho : o = u.raiseIllegal) (h : Grows s u)

theorem Answers.of {s t : State} (h : Grows s t) : Answers s (.next t) := .next t rfl h

theorem Answers.raised {s u : State} (h : Grows s u) : Answers s u.raiseIllegal := .raise u rfl h

theorem Answers.after {s u : State} {o : Outcome} (h : Grows s u) (k : Answers u o) : Answers s o := by
  cases k with
  | next t ho g => exact .next t ho (h.trans g)
  | raise v ho g => exact .raise v ho (h.trans g)

theorem Answers.orIllegal {s : State} {r : Option State} {k : State → State} (hr : ∀ u, r = some u → Grows s u)
    (hk : GrowsOp k) : Answers s (s.orIllegal r k) := by
  cases r with
  | some u => exact .of ((hr u rfl).trans (hk u))
  | none => exact .raised (Grows.refl s)

section
variable (r : Reg) (s : State)

theorem load8_answers (src : Src8) : Answers s (load8 r src s) :=
  .orIllegal (fun _ => Grows.operand8r1) fun u => (Grows.setReg u r _).trans (Grows.alu .tst8 _)

theorem load16_answers (src : Src16) : Answers s (load16 r src s) :=
  .orIllegal (fun _ => Grows.operand16r1) fun u => (Grows.setReg u r _).trans (Grows.alu .tst16 _)

theorem store8_answers (m : MemOp) : Answers s (store8 r m s) :=
  .orIllegal (fun _ => Grows.resolveEA) fun u => Grows.trans (t := (u.ld1 r).tst8) Grows.same (Grows.stor8 _)

theorem store16_answers (m : MemOp) : Answers s (store16 r m s) :=
  .orIllegal (fun _ => Grows.resolveEA) fun u => Grows.trans (t := (u.ld1 r).tst16) Grows.same (Grows.stor16 _)

theorem lea_answers (ix : Index) : Answers s (lea r ix s) := .orIllegal (fun _ => Grows.indx) fun u => Grows.setReg u r _

theorem leaZ_answers (ix : Index) : Answers s (leaZ r ix s) :=
  .orIllegal (fun _ => Grows.indx) fun u => (Grows.setReg u r _).trans Grows.same

variable {op : State → State} (ho : GrowsOp op)
include ho

/-- An operation between a read of a register and a write of it. -/
theorem Grows.onReg : Grows s ((op (s.ld1 r)).st1 r) :=
  Grows.trans (t := s.ld1 r) Grows.same ((ho _).trans (Grows.setReg _ r _))

theorem binary8_answers (src : Src8) : Answers s (binary8 op r src s) :=
  .orIllegal (fun _ => Grows.operand8r2) fun u => Grows.onReg r u ho

theorem test8_answers (src : Src8) : Answers s (test8 op r src s) :=
  .orIllegal (fun _ => Grows.operand8r2) fun u => Grows.trans (t := u.ld1 r) Grows.same (ho _)

theorem binary16_answers (src : Src16) : Answers s (binary16 op r src s) :=
  .orIllegal (fun _ => Grows.operand16r2) fun u => Grows.onReg r u ho

theorem test16_answers (src : Src16) : Answers s (test16 op r src s) :=
  .orIllegal (fun _ => Grows.operand16r2) fun u => Grows.trans (t := u.ld1 r) Grows.same (ho _)

theorem test16Old_answers (src : Src16) : Answers s (test16Old op r src s) :=
  .orIllegal (fun _ => Grows.operand16r2) fun u => Grows.trans (t := { u with r1 := s.reg r }) Grows.same (ho _)

theorem unaryReg_answers : Answers s (unaryReg op r s) := .of (Grows.onReg r s ho)

theorem readModifyWrite_answers (m : MemOp) : Answers s (readModifyWrite op m s) :=
  .orIllegal (fun _ => Grows.resolveEA) fun u =>
    Grows.trans (t := u.ftch8r1) Grows.same ((ho _).trans (Grows.stor8 _))

end

theorem cmpx_answers (src : Src16) (s : State) : Answers s (execCmpx src s) := by
  unfold execCmpx
  split
  · exact test16Old_answers .X s (Grows.alu .sub16) src
  · exact test16_answers .X s (Grows.alu .sub16) src

theorem tfr_answers (p q : PairReg) (s : State) : Answers s (execTfr p q s) := by
  unfold execTfr
  split
  · exact .of (Grows.transfer s _ _)
  · exact .raised (Grows.refl s)

theorem exg_answers (p q : PairReg) (s : State) : Answers s (execExg p q s) := by
  unfold execExg
  split
  · exact .of (Grows.exchange s _ _)
  · exact .raised (Grows.refl s)

/-- No instruction does more than raise `IllegalOpcode` once, at its end. -/
theorem exec_answers (i : Instr) (s : State) : Answers s (exec i s) := by
  cases i with
  | lda src | ldb src => exact load8_answers _ s src
  | ldd src | ldx src | ldy src | ldu src | lds src => exact load16_answers _ s src
  | sta m | stb m => exact store8_answers _ s m
  | std m | stx m | sty m | stu m | sts m => exact store16_answers _ s m
  | leax ix | leay ix => exact leaZ_answers _ s ix
  | leas ix | leau ix => exact lea_answers _ s ix
  | tfr p q => exact tfr_answers p q s
  | exg p q => exact exg_answers p q s
  | adda src | addb src => exact binary8_answers _ s (Grows.alu .add8) src
  | adca src | adcb src => exact binary8_answers _ s (Grows.alu .adc8) src
  | addd src => exact binary16_answers _ s (Grows.alu .add16) src
  | suba src | subb src => exact binary8_answers _ s (Grows.alu .sub8) src
  | sbca src | sbcb src => exact binary8_answers _ s (Grows.alu .sbc8) src
  | subd src => exact binary16_answers _ s (Grows.alu .sub16) src
  | cmpa src | cmpb src => exact test8_answers _ s (Grows.alu .sub8) src
  | cmpd src | cmpy src | cmpu src | cmps src => exact test16_answers _ s (Grows.alu .sub16) src
  | cmpx src => exact cmpx_answers src s
  | neg m => exact readModifyWrite_answers s (Grows.alu .neg8) m
  | nega | negb => exact unaryReg_answers _ s (Grows.alu .neg8)
  | inc m => exact readModifyWrite_answers s (Grows.alu .inc8) m
  | inca | incb => exact unaryReg_answers _ s (Grows.alu .inc8)
  | dec m => exact readModifyWrite_answers s (Grows.alu .dec8) m
  | deca | decb => exact unaryReg_answers _ s (Grows.alu .dec8)
  | tst m => exact .orIllegal (fun _ => Grows.resolveEA) fun _ => Grows.same
  | tsta | tstb => exact .of Grows.same
  | clr m => exact .orIllegal (fun _ => Grows.resolveEA) fun u => Grows.trans (t := u.clr8) Grows.same (Grows.stor8 _)
  | clra | clrb => exact .of Grows.same
  | mul => exact .of (Grows.alu .mul s)
  | daa => exact .of (Grows.alu .daa s)
  | sex => exact .of Grows.same
  | abx => exact .of (Grows.alu .abx s)
  | anda src | andb src => exact binary8_answers _ s (Grows.alu .and8) src
  | ora src | orb src => exact binary8_answers _ s (Grows.alu .or8) src
  | eora src | eorb src => exact binary8_answers _ s (Grows.alu .eor8) src
  | bita src | bitb src => exact test8_answers _ s (Grows.alu .and8) src
  | com m => exact readModifyWrite_answers s (Grows.alu .com8) m
  | coma | comb => exact unaryReg_answers _ s (Grows.alu .com8)
  | lsr m => exact readModifyWrite_answers s (Grows.alu .lsr8) m
  | lsra | lsrb => exact unaryReg_answers _ s (Grows.alu .lsr8)
  | ror m => exact readModifyWrite_answers s (Grows.alu .ror8) m
  | rora | rorb => exact unaryReg_answers _ s (Grows.alu .ror8)
  | asr m => exact readModifyWrite_answers s (Grows.alu .asr8) m
  | asra | asrb => exact unaryReg_answers _ s (Grows.alu .asr8)
  | lsl m => exact readModifyWrite_answers s (Grows.alu .lsl8) m
  | lsla | lslb => exact unaryReg_answers _ s (Grows.alu .lsl8)
  | rol m => exact readModifyWrite_answers s (Grows.alu .rol8) m
  | rola | rolb => exact unaryReg_answers _ s (Grows.alu .rol8)
  | andcc mask | orcc mask => exact .of Grows.same
  | bra d => exact .of (Grows.trans (t := s.rel8 d) Grows.same (Grows.jump _))
  | lbra d => exact .of (Grows.trans (t := s.rel16 d) Grows.same (Grows.jump _))
  | brn d | lbrn d => exact .of Grows.same
  | bhi d | bcc d | bne d | bvc d | bpl d | bge d | bgt d =>
    exact .of (Grows.trans (t := s.rel8 d) Grows.same (Grows.branchIfNot _ _))
  | bls d | bcs d | beq d | bvs d | bmi d | blt d | ble d =>
    exact .of (Grows.trans (t := s.rel8 d) Grows.same (Grows.branchIf _ _))
  | lbhi d | lbcc d | lbne d | lbvc d | lbpl d | lbge d | lbgt d =>
    exact .of (Grows.trans (t := s.rel16 d) Grows.same (Grows.branchIfNot _ _))
  | lbls d | lbcs d | lbeq d | lbvs d | lbmi d | lblt d | lble d =>
    exact .of (Grows.trans (t := s.rel16 d) Grows.same (Grows.branchIf _ _))
  | bsr d => exact .of (Grows.trans (t := s.rel8 d) Grows.same (Grows.call _))
  | lbsr d => exact .of (Grows.trans (t := s.rel16 d) Grows.same (Grows.call _))
  | jsr m => exact .orIllegal (fun _ => Grows.resolveEA) Grows.call
  | rts => exact .of ((Grows.pullReg s .S .PC).trans Grows.same)
  | jmp m => exact .orIllegal (fun _ => Grows.resolveEA) Grows.jump
  | pshs l | pshu l => exact .of (Grows.pushList s _ l)
  | puls l | pulu l => exact .of (Grows.pullList s _ l)
  | swi | swi2 | swi3 => exact .of (Grows.swi s _ _)
  | rti => exact .of (Grows.rti s)
  | cwai mask => exact .of (Grows.cwai s mask)
  | sync | nop | prefix10 | prefix11 => exact .of Grows.same

/-! ### Microcode programs -/

/-- What one token can do: go on with nothing raised, or end the program with at most one `IllegalOpcode` (R143). -/
inductive TokenAnswers (s : State) (r : State ⊕ Outcome) : Prop where
  | go (u : State) (hr : r = .inl u) (h : Grows s u)
  | stop (o : Outcome) (hr : r = .inr o) (h : Answers s o)

theorem TokenAnswers.on {s u : State} (h : Grows s u) : TokenAnswers s (.inl u) := .go u rfl h

theorem TokenAnswers.raised {s u : State} (h : Grows s u) : TokenAnswers s (.inr u.raiseIllegal) :=
  .stop _ rfl (.raised h)

theorem State.fetchIndx_answers (s : State) : TokenAnswers s s.fetchIndx := by
  unfold State.fetchIndx
  split
  · exact .raised (Grows.refl s)
  · split
    · rename_i hu
      exact .on ((Grows.advance s _).trans (Grows.indx hu))
    · exact .raised (Grows.advance s _)

theorem State.fetchRgop_answers (s : State) (x : Bool) : TokenAnswers s (s.fetchRgop x) := by
  unfold State.fetchRgop State.fetch8
  simp only
  split
  · refine .on ((Grows.advance s 1).trans ?_)
    split
    · exact Grows.exchange _ _ _
    · exact Grows.transfer _ _ _
  · exact .raised (Grows.advance s 1)

theorem State.runMeaning_answers (s : State) (f : Format) (m : Mnemonic) : Answers s (s.runMeaning f m) := by
  unfold State.runMeaning
  split
  · exact .raised (Grows.refl s)
  · split
    · exact .raised (Grows.refl s)
    · exact .after (Grows.advance s _) (exec_answers _ _)

theorem State.recordPrefix_answers (s : State) : TokenAnswers s s.recordPrefix := by
  unfold State.recordPrefix
  split
  · exact .on Grows.same
  · exact .raised (Grows.refl s)

theorem Grows.swiToken (s : State) (k : SwiKind) : Grows s (s.swiToken k) := by
  cases k <;> exact Grows.swi s _ _

theorem State.runToken_answers (s : State) (f : Format) (t : Token) : TokenAnswers s (s.runToken f t) := by
  have fetch1 := Grows.advance s 1
  have fetch2 := Grows.advance s 2
  cases t with
  | pcb d => exact .on (fetch1.trans (Grows.setScratch _ d _))
  | pcw d => exact .on (fetch2.trans (Grows.setScratch _ d _))
  | drct | rel8 => exact .on (fetch1.trans Grows.same)
  | xtnd | rel16 => exact .on (fetch2.trans Grows.same)
  | indx => exact s.fetchIndx_answers
  | ld1 r | ld2 r => exact .on Grows.same
  | st1 r | st2 r | stEa r => exact .on (Grows.setReg s r _)
  | ftch8 d | ftch16 d => cases d <;> exact .on Grows.same
  | stor8 => exact .on (Grows.stor8 s)
  | stor16 => exact .on (Grows.stor16 s)
  | rgop x => exact s.fetchRgop_answers x
  | alu op => exact .on (Grows.alu op s)
  | qt =>
    simp only [State.runToken]
    split
    · exact .stop _ rfl (.of (Grows.refl s))
    · exact .on (Grows.refl s)
  | qf =>
    simp only [State.runToken]
    split
    · exact .on (Grows.refl s)
    · exact .stop _ rfl (.of (Grows.refl s))
  | page => exact s.recordPrefix_answers
  | swi k => exact .on (Grows.swiToken s k)
  | rti => exact .on (Grows.rti s)
  | err => exact .raised (Grows.refl s)
  | meaning m => exact .stop _ rfl (s.runMeaning_answers f m)
  | idxu | chk c | ntck | sync | wait | nop => exact .on Grows.same

/-- A program raises `IllegalOpcode` once at most: the token that raises ends it (R143). -/
theorem State.runMicrocode_answers (f : Format) (ts : List Token) (s : State) : Answers s (s.runMicrocode f ts) := by
  induction ts generalizing s with
  | nil => exact .of (Grows.refl s)
  | cons t ts ih =>
    unfold State.runMicrocode
    cases s.runToken_answers f t with
    | go u hr h => rw [hr]; exact .after h (ih u)
    | stop o hr h => rw [hr]; exact h

/-! ### The cycle and the step -/

/-- A next state that `raise IllegalOpcode` left: one more event counted, and the event is there (R600). -/
structure Raised (s t : State) : Prop where
  count : t.illegalCount = s.illegalCount + 1
  event : ∃ o p, Event.illegalOpcode o p ∈ t.events

theorem State.raiseIllegal_raised {s t : State} (h : s.raiseIllegal = .next t) : Raised s t := by
  rcases s.raiseIllegal_cases with ⟨-, he⟩ | ⟨-, he⟩
  · rw [he] at h
    cases h
  · rw [he] at h
    cases h
    exact ⟨rfl, s.op, s.page, by simp⟩

theorem Raised.after {s u t : State} (h : Grows s u) (k : Raised u t) : Raised s t :=
  ⟨h.count ▸ k.count, k.event⟩

theorem Raised.thenGrows {s u t : State} (h : Raised s u) (k : Grows u t) : Raised s t :=
  ⟨k.count.trans h.count, h.event.imp fun _ he => he.imp fun _ hm => k.events.subset hm⟩

/-- At most one `IllegalOpcode` event is counted between two states, and a counted one is among the events. -/
def RaisesOnce (s t : State) : Prop := Grows s t ∨ Raised s t

theorem RaisesOnce.after {s u t : State} (h : Grows s u) (k : RaisesOnce u t) : RaisesOnce s t :=
  k.imp h.trans (Raised.after h)

theorem RaisesOnce.thenGrows {s u t : State} (h : RaisesOnce s u) (k : Grows u t) : RaisesOnce s t :=
  h.imp (fun g => g.trans k) fun r => r.thenGrows k

/-- The next state of an answer: one that is not on page 0 had nothing raised, for raising goes back to page 0 (R600). -/
theorem Answers.of_next {s t : State} {o : Outcome} (h : Answers s o) (ho : o = .next t) :
    RaisesOnce s t ∧ (t.page ≠ .p0 → Grows s t) := by
  cases h with
  | next u hu g =>
    cases hu.symm.trans ho
    exact ⟨.inl g, fun _ => g⟩
  | raise u hu g =>
    have hr := hu.symm.trans ho
    exact ⟨.inr ((State.raiseIllegal_raised hr).after g), fun hp => absurd (State.raiseIllegal_page hr) hp⟩

theorem State.fetchExecute_answers (s : State) : Answers s s.fetchExecute := by
  have fetch : ∀ n o, Grows s { s.advance n with op := o } := fun n o => (Grows.advance s n).trans Grows.same
  unfold State.fetchExecute
  split
  · exact .after (fetch _ _) (exec_answers _ _)
  · exact .raised (fetch 1 _)
  · exact .raised (Grows.refl s)

/-- The loop of R140 ends at the first `IllegalOpcode`, so it counts one at most. -/
theorem State.fetchLoop_raises {es : List TableEntry} {n : Nat} {s t : State} (h : State.fetchLoop es n s = .next t) :
    RaisesOnce s t := by
  induction n generalizing s with
  | zero => cases h
  | succ n ih =>
    have fetch : Grows s { s.advance 1 with op := s.peek s.pc } := (Grows.advance s 1).trans Grows.same
    unfold State.fetchLoop at h
    simp only at h
    split at h
    · exact .after fetch (.inr (State.raiseIllegal_raised h))
    · rename_i e _
      obtain ⟨u, hu, h⟩ := onNext_next h
      have run : RaisesOnce s u := .after fetch ((State.runMicrocode_answers e.format e.microcode _).of_next hu).1
      split at h
      · rename_i again
        have g : Grows s u := run.resolve_right fun r => by have := again.2.symm.trans r.count; omega
        exact .after g (ih h)
      · cases h
        exact run

theorem Grows.endCycle (s : State) : Grows s s.endCycle := by
  unfold State.endCycle
  split
  · exact Grows.same
  · exact Grows.trans (t := { s with page := .p0, ntck := false }) Grows.same (Grows.emit _ _)

/-- A cycle counts one `IllegalOpcode` event at most: there is a second lookup only on another page than 0, so only where the
first raised nothing. -/
theorem State.cycle_raises {s t : State} (h : s.cycle = .next t) : RaisesOnce s t := by
  refine .after (u := s.beginCycle) Grows.same ?_
  rcases State.cycle_next h with ⟨-, u, v, hu, hv, rfl⟩ | ⟨es, v, -, hv, rfl⟩
  · obtain ⟨once, quiet⟩ := s.beginCycle.fetchExecute_answers.of_next hu
    rcases hv with ⟨-, rfl⟩ | ⟨hp, hv⟩
    · exact once.thenGrows (Grows.endCycle v)
    · exact .after (quiet hp) ((u.fetchExecute_answers.of_next hv).1.thenGrows (Grows.endCycle v))
  · exact (State.fetchLoop_raises hv).thenGrows (Grows.endCycle v)

/-- A step counts one `IllegalOpcode` event at most, and a counted one is among its events (R600, log 8). -/
theorem step_raises {s t : State} (h : step s = .next t) : RaisesOnce s.beginCommand t := by
  rcases step_next h with ⟨-, u, hu, rfl⟩ | ⟨-, rfl⟩
  · exact (State.cycle_raises hu).thenGrows (Grows.checkInterrupts u)
  · exact .inl (Grows.checkInterrupts _)

/-- Settles O12: the parameters and the latches are what `Keeps` says of a step, the count is that of `step_raises`. -/
theorem stepKeepsParameters : Obligations.StepKeepsParameters := by
  intro s t h
  have kept := Keeps.step h
  refine ⟨kept.cfg, kept.windows, kept.nextHandle, kept.asm, kept.latches, ?_⟩
  exact (step_raises h).imp (fun g => g.count) fun r => ⟨r.count, r.event⟩

end Sys2Proof.Machine
end

section
/-! PROOF. The memory port (R60 to R68): a `poke` told owner by owner, a list of `poke`s, a 16-bit access, `fill`; and the
invariant every step keeps. -/

namespace Sys2Proof.Machine

open Sys2Proof.Claims

/-! ### The invariant (R31, R61) -/

/-- Settles O10: the canonical form and the bound are what `Keeps` says of a step, page 0 is the end of its cycle. -/
theorem stepKeepsInv : Obligations.StepKeepsInv := by
  intro s t inv h
  have kept := Keeps.step h
  exact ⟨kept.wf inv.canonical, kept.below inv.inside, step_page inv.page h⟩

/-! ### A `poke` told owner by owner (R62, R68, D39) -/

/-- The bound on nesting is read once, by the outermost store: the `poke` on a bus is given its own depth (log 31). -/
theorem Bus.poke_nesting (cfg : Config) (ws : List Window) (k d a : Nat) (v : Byte) (b : Bus) :
    Bus.poke { cfg with deviceNesting := k } ws d a v b = Bus.poke cfg ws d a v b := by
  induction d generalizing a v b with
  | zero => rfl
  | succ d ih => simp only [Bus.poke, ih]; rfl

/-- A rule answers an update in its own state, for its own owner, where its address and its value, if it names any, are those
of the update. -/
theorem DeviceRule.answers_iff (r : DeviceRule) (n o a : Nat) (v : Byte) :
    DeviceRule.answers r n o a v = true ↔
      r.state = n ∧ r.owner = o ∧ r.address.getD a = a ∧ r.value.getD v = v := by
  obtain ⟨_, _, address, value, _, _⟩ := r
  cases address <;> cases value <;> simp [DeviceRule.answers, and_assoc]

section
variable (s : State) (b : Bus)

/-- The actions of a device on the state are its actions on the bus, where its stores may notify `d` deep. -/
theorem deviceActs_withBus {d : Nat} (hd : s.cfg.deviceNesting = d + 1) (acts : List DeviceAction) :
    deviceActs (s.withBus b) acts =
      s.withBus (acts.foldl
        (Bus.act fun addr w b => Bus.poke s.cfg s.windows d (addr.toNat % 2 ^ s.cfg.memBits.val) w b) b) := by
  refine List.foldl_hom s.withBus fun b act => ?_
  cases act with
  | latch k => rfl
  | poke addr v =>
    have depth : s.cfg.deviceNesting - 1 = d := by omega
    show s.withBus (Bus.poke { s.cfg with deviceNesting := s.cfg.deviceNesting - 1 } s.windows
      (s.cfg.deviceNesting - 1) (addr.toNat % 2 ^ s.cfg.memBits.val) v b) = _
    rw [Bus.poke_nesting, depth]
    rfl

variable (a : Nat) (v : Byte) (w : Window)

/-- Past the bound on nesting an owner is told and does nothing (log 31). -/
theorem updated_withBus_zero (hd : s.cfg.deviceNesting = 0) :
    updated a v (s.withBus b) w = s.withBus { b with events := b.events ++ [.windowUpdate w.owner a v] } := by
  have silent : (s.withBus b).cfg.devices.find? (fun r => decide ((s.withBus b).cfg.deviceNesting ≠ 0 ∧
      r.state = (s.withBus b).deviceState ∧ r.owner = w.owner ∧ r.address.getD a = a ∧ r.value.getD v = v)) = none :=
    List.find?_eq_none.mpr fun r _ h => (of_decide_eq_true h).1 hd
  unfold updated
  simp only [silent]
  rfl

/-- One owner's update of the state is its update of the bus. -/
theorem updated_withBus_succ {d : Nat} (hd : s.cfg.deviceNesting = d + 1) :
    updated a v (s.withBus b) w = s.withBus (Bus.update s.cfg
      (fun addr w b => Bus.poke s.cfg s.windows d (addr.toNat % 2 ^ s.cfg.memBits.val) w b) a v b w.owner) := by
  have deep : (s.withBus b).cfg.deviceNesting ≠ 0 := hd ▸ d.succ_ne_zero
  have found : (s.withBus b).cfg.devices.find? (fun r => decide ((s.withBus b).cfg.deviceNesting ≠ 0 ∧
      r.state = (s.withBus b).deviceState ∧ r.owner = w.owner ∧ r.address.getD a = a ∧ r.value.getD v = v)) =
      s.cfg.devices.find? fun r => DeviceRule.answers r b.deviceState w.owner a v := by
    refine congrArg (s.cfg.devices.find? ·) (funext fun r => ?_)
    rw [Bool.eq_iff_iff, decide_eq_true_iff, DeviceRule.answers_iff, and_iff_right deep]
    rfl
  unfold updated Bus.update
  simp only [found]
  cases s.cfg.devices.find? fun r => DeviceRule.answers r b.deviceState w.owner a v with
  | none => rfl
  | some r =>
    exact deviceActs_withBus s
      { b with events := b.events ++ [.windowUpdate w.owner a v], deviceState := r.next } hd r.actions

end

/-- The windows that cover an address, as the claims write the range (R68). -/
theorem filter_covers (ws : List Window) (a : Nat) :
    (ws.filter fun w => decide (w.base ≤ a ∧ a < w.base + w.length)) = ws.filter (·.covers a) :=
  List.filter_congr fun _ _ => Bool.decide_and _ _

/-- `poke` is the store, then each covering window's update in registration order (R62, R68). -/
theorem State.poke_eq_foldl (s : State) (addr : Word) (v : Byte) :
    s.poke addr v = (s.windows.filter (·.covers (s.mask addr))).foldl (updated (s.mask addr) v)
      { s with mem := Memory.write (s.mask addr) v s.mem } := by
  show _ = List.foldl _ (s.withBus { s.bus with mem := Memory.write (s.mask addr) v s.mem }) _
  unfold State.poke
  cases hd : s.cfg.deviceNesting with
  | zero =>
    rw [List.foldl_hom s.withBus fun b w => updated_withBus_zero s b _ v w hd]
    simp only [Bus.poke, ownersAt, List.foldl_map]
    rfl
  | succ d =>
    rw [List.foldl_hom s.withBus fun b w => updated_withBus_succ s b _ v w hd]
    simp only [Bus.poke, ownersAt, List.foldl_map]
    rfl

/-- Settles O21: the fold over the windows that cover the address. -/
theorem devicesAnswerUpdates : Obligations.DevicesAnswerUpdates := by
  intro s addr v a
  rw [filter_covers]
  exact s.poke_eq_foldl addr v

/-! ### What a `poke` tells (R62, R68) -/

theorem Grows.deviceActs (s : State) (acts : List DeviceAction) : Grows s (Claims.deviceActs s acts) := by
  refine Grows.foldl _ (fun s act => ?_) acts s
  cases act with
  | latch k => exact Grows.same
  | poke addr v =>
    have store := Grows.poke { s with cfg := { s.cfg with deviceNesting := s.cfg.deviceNesting - 1 } } addr v
    exact ⟨store.count, store.events⟩

/-- An owner is told before anything else of its update happens (R62). -/
theorem updated_events (a : Nat) (v : Byte) (s : State) (w : Window) :
    s.events ++ [.windowUpdate w.owner a v] <+: (updated a v s w).events := by
  unfold updated
  simp only
  split
  · exact List.prefix_rfl
  · rename_i r _
    exact (Grows.deviceActs { s.emit (.windowUpdate w.owner a v) with deviceState := r.next } r.actions).events

/-- A round of updates tells each window's owner, in order, among the events it appends. -/
theorem foldl_updated_events (a : Nat) (v : Byte) (ws : List Window) (s : State) :
    ∃ es, (ws.foldl (updated a v) s).events = s.events ++ es ∧
      (ws.map fun w => Event.windowUpdate w.owner a v).Sublist es := by
  induction ws generalizing s with
  | nil => exact ⟨[], by simp, .slnil⟩
  | cons w ws ih =>
    obtain ⟨own, hown⟩ := updated_events a v s w
    obtain ⟨rest, hrest, told⟩ := ih (updated a v s w)
    refine ⟨.windowUpdate w.owner a v :: (own ++ rest), ?_, (told.trans (List.sublist_append_right _ _)).cons_cons _⟩
    rw [List.foldl_cons, hrest, ← hown]
    simp

/-- Settles O20: what is told is the round of updates, and with no device the rules of the free `poke`. -/
theorem pokeStoresAndNotifies : Obligations.PokeStoresAndNotifies := by
  intro s addr v a told t
  have htold : told = s.notifications a v := congrArg (List.map _) (filter_covers s.windows a)
  refine ⟨rfl, ?_, fun hd hw => ⟨fun b => s.peek_poke addr v b hw hd, ?_, ?_, ?_⟩⟩
  · rw [htold, show t = _ from s.poke_eq_foldl addr v]
    exact foldl_updated_events a v _ { s with mem := Memory.write a v s.mem }
  · rw [htold, show t = _ from State.poke_free hd addr v]
    rfl
  · rw [show t = _ from State.poke_free hd addr v]
  · rw [show t = _ from State.poke_free hd addr v]

/-! ### A list of `poke`s -/

/-- With no device on a window, the last store that reaches an address is what it reads as. -/
theorem peek_storeAll {s : State} (hd : s.deviceFree = true) (hw : Memory.wf s.mem = true) (ps : List (Word × Byte))
    (addr : Word) : (storeAll s ps).peek addr = readAfter s ps addr := by
  induction ps generalizing s with
  | nil => rfl
  | cons p ps ih =>
    have rest := ih (s := s.poke p.1 p.2) hd (s.wf_poke _ _ hw)
    unfold readAfter at rest ⊢
    rw [s.peek_poke _ _ _ hw hd] at rest
    exact rest

/-- With no device on a window, stores change memory and the events alone: one round of notifications for each, in order. -/
theorem storeAll_free {s : State} (hd : s.deviceFree = true) (ps : List (Word × Byte)) :
    storeAll s ps = { s with
      mem := (storeAll s ps).mem
      events := s.events ++ ps.flatMap fun p => s.notifications (s.mask p.1) p.2 } := by
  induction ps generalizing s with
  | nil => simp [storeAll]
  | cons p ps ih =>
    have rest := ih (s := s.poke p.1 p.2) hd
    rw [List.flatMap_cons, ← List.append_assoc, show storeAll s (p :: ps) = storeAll (s.poke p.1 p.2) ps from rfl]
    generalize storeAll (s.poke p.1 p.2) ps = t at rest ⊢
    rw [State.poke_free hd] at rest
    exact rest

/-! ### A 16-bit access (R65, D4) -/

/-- The high byte of a word as a number. -/
theorem hiByte_eq_ofNat (v : Word) : hiByte v = BitVec.ofNat 8 (v.toNat / 256) := by
  apply BitVec.eq_of_toNat_eq
  simp [hiByte, BitVec.extractLsb'_toNat, Nat.shiftRight_eq_div_pow]

/-- The low byte of a word as a number. -/
theorem loByte_eq_ofNat (v : Word) : loByte v = BitVec.ofNat 8 v.toNat := by
  apply BitVec.eq_of_toNat_eq
  simp [loByte, BitVec.extractLsb'_toNat]

/-- A 16-bit write is the stores of its two bytes, the high byte first (R65). -/
theorem State.memWrite16_eq_storeAll (s : State) (addr v : Word) :
    s.memWrite16 addr v = storeAll s (wordStores addr v) := by
  simp only [State.memWrite16, hiByte_eq_ofNat, loByte_eq_ofNat]
  rfl

/-- A read after a 16-bit write: the low byte, stored last, wins where the two addresses fold together. -/
theorem State.peek_memWrite16 {s : State} (hd : s.deviceFree = true) (hw : Memory.wf s.mem = true) (addr v b : Word) :
    (s.memWrite16 addr v).peek b =
      if s.mask b = s.mask (addr + 1) then loByte v else if s.mask b = s.mask addr then hiByte v else s.peek b := by
  rw [State.memWrite16_eq_storeAll, peek_storeAll hd hw, hiByte_eq_ofNat, loByte_eq_ofNat]
  rfl

/-- A word written is read back where its two bytes are two (R65). -/
theorem State.memRead16_memWrite16 {s : State} (hd : s.deviceFree = true) (hw : Memory.wf s.mem = true) (addr v : Word)
    (two : s.mask (addr + 1) ≠ s.mask addr) : (s.memWrite16 addr v).memRead16 addr = v := by
  rw [State.memRead16, State.peek_memWrite16 hd hw, State.peek_memWrite16 hd hw, if_neg two.symm, if_pos rfl, if_pos rfl,
    wordOf_hiByte_loByte]

/-- The notifications of a 16-bit write: those of the high byte, then those of the low byte. -/
theorem State.memWrite16_events {s : State} (hd : s.deviceFree = true) (addr v : Word) :
    (s.memWrite16 addr v).events =
      s.events ++ s.notifications (s.mask addr) (hiByte v) ++ s.notifications (s.mask (addr + 1)) (loByte v) := by
  rw [State.memWrite16_eq_storeAll, storeAll_free hd, hiByte_eq_ofNat, loByte_eq_ofNat]
  simp [wordStores]

/-- Settles O22: a 16-bit access is its two byte accesses. -/
theorem wordsAreBigEndian : Obligations.WordsAreBigEndian := by
  intro s addr v hw
  rw [← hiByte_eq_ofNat, ← loByte_eq_ofNat]
  exact ⟨s.memWrite16_eq_storeAll addr v, toNat_wordOf _ _, fun hd =>
    ⟨State.peek_memWrite16 hd hw addr v, State.memWrite16_events hd addr v, State.memRead16_memWrite16 hd hw addr v⟩⟩

/-! ### `fill` (R63) -/

/-- The bytes `fill` lays from an address already reduced, those past the top left out, each with its address. -/
def State.laidFrom (s : State) (a : Nat) (vs : List Byte) : List (Word × Byte) :=
  (vs.take (s.memSize - a)).zipIdx.map fun p => (BitVec.ofNat 16 (a + p.2), p.1)

/-- The array is no larger than the 16-bit address space (R5, D3). -/
theorem State.memSize_le (s : State) : s.memSize ≤ 65536 :=
  Nat.pow_le_pow_right (n := 2) (by decide) (Nat.le_of_lt_succ s.cfg.memBits.isLt)

/-- An address inside the array is its own masked address (R61). -/
theorem State.mask_ofNat_of_lt {s : State} {a : Nat} (h : a < s.memSize) : s.mask (BitVec.ofNat 16 a) = a := by
  have fits : a < 65536 := h.trans_le s.memSize_le
  rw [State.mask, BitVec.toNat_ofNat, Nat.mod_eq_of_lt fits, Nat.mod_eq_of_lt h]

/-- Nothing is laid at or past the top. -/
theorem State.laidFrom_top {s : State} {a : Nat} (h : s.memSize ≤ a) (vs : List Byte) : s.laidFrom a vs = [] := by
  simp [State.laidFrom, Nat.sub_eq_zero_of_le h]

/-- Below the top the first byte is laid at the address, the others from the next on. -/
theorem State.laidFrom_cons {s : State} {a : Nat} (h : a < s.memSize) (v : Byte) (vs : List Byte) :
    s.laidFrom a (v :: vs) = (BitVec.ofNat 16 a, v) :: s.laidFrom (a + 1) vs := by
  have room : s.memSize - a = s.memSize - (a + 1) + 1 := by omega
  simp only [State.laidFrom, room, List.take_succ_cons, List.zipIdx_cons', List.map_cons, List.map_map]
  congr 2
  funext p
  simp [Nat.add_assoc, Nat.add_comm 1]

/-- The loop of `fill` is the stores of the bytes it lays, and answers where it stopped (R63). -/
theorem State.fillFrom_eq (s : State) (a : Nat) (ha : a ≤ s.memSize) (vs : List Byte) :
    s.fillFrom a vs = (storeAll s (s.laidFrom a vs), min (a + vs.length) s.memSize) := by
  induction vs generalizing s a with
  | nil => simp [State.fillFrom, State.laidFrom, storeAll, ha]
  | cons v vs ih =>
    unfold State.fillFrom
    split
    · rename_i top
      have stop : a = s.memSize := by omega
      rw [State.laidFrom_top top, stop]
      simp [storeAll]
    · rename_i below
      have inside : a < s.memSize := by omega
      rw [ih (s.poke (BitVec.ofNat 16 a) v) (a + 1) inside, State.laidFrom_cons inside]
      have len : a + 1 + vs.length = a + (v :: vs).length := by simp; omega
      rw [len]
      rfl

/-- A read after the loop of `fill`, with no device on a window: the byte laid there, or the byte before. -/
theorem State.peek_fillFrom {s : State} (hd : s.deviceFree = true) (hw : Memory.wf s.mem = true) (a : Nat) (vs : List Byte)
    (b : Word) : (s.fillFrom a vs).1.peek b =
      if a ≤ s.mask b then vs.getD (s.mask b - a) (s.peek b) else s.peek b := by
  induction vs generalizing s a with
  | nil => simp [State.fillFrom]
  | cons v vs ih =>
    have inArray := s.mask_lt b
    unfold State.fillFrom
    split
    · rename_i top
      rw [if_neg (by omega)]
    · rename_i below
      rw [ih (s := s.poke (BitVec.ofNat 16 a) v) hd (s.wf_poke _ _ hw), State.mask_poke, State.peek_poke _ _ _ _ hw hd,
        State.mask_ofNat_of_lt (by omega)]
      rcases Nat.lt_trichotomy (s.mask b) a with h | h | h
      · rw [if_neg (by omega), if_neg (by omega), if_neg (by omega)]
      · simp [h]
      · have next : s.mask b - a = s.mask b - (a + 1) + 1 := by omega
        rw [if_pos (by omega), if_neg (by omega), if_pos (by omega), next, List.getD_cons_succ]

/-- The notifications of the bytes laid are at the addresses counted up from the first, all inside the array. -/
theorem State.laidFrom_notifications (s : State) (a : Nat) (vs : List Byte) :
    ((s.laidFrom a vs).flatMap fun p => s.notifications (s.mask p.1) p.2) =
      (vs.take (s.memSize - a)).zipIdx.flatMap fun p => s.notifications (a + p.2) p.1 := by
  rw [State.laidFrom, List.flatMap_map]
  refine List.flatMap_congr fun p hp => ?_
  have place := List.snd_lt_of_mem_zipIdx hp
  rw [List.length_take] at place
  rw [State.mask_ofNat_of_lt (by omega)]

/-- Settles O23: the loop from the masked address is the stores of the bytes laid, each of them inside the array. -/
theorem fillStopsAtTheTop : Obligations.FillStopsAtTheTop := by
  intro s addr bs hw laid
  have filled := s.fillFrom_eq (s.mask addr) (s.mask_lt addr).le bs
  refine ⟨filled, fun hd => ⟨fun b => State.peek_fillFrom hd hw _ bs b, ?_⟩⟩
  have stores := storeAll_free hd (s.laidFrom (s.mask addr) bs)
  rw [State.laidFrom_notifications] at stores
  rw [State.fill, filled]
  have told := congrArg State.events stores
  exact ⟨told, told ▸ stores⟩

end Sys2Proof.Machine
end

section
/-! PROOF. The encoding (R90 to R119): the decoder after the encoder, the encoder after the decoder, and the opcode table's
assigned slots. -/

namespace Sys2Proof

/-! ### Decoding what was encoded (R90, R103, R104) -/

/-- The encoder writes the instruction's row with its operand (R90, R503). -/
theorem encode_of_rowOf {i : Instr} {r : Row} (hr : rowOf i.mnemonic i.operand.format = some r) :
    encode i = r.emit i.operand := by
  rw [encode, hr]

/-- One lookup on the row's page, at the opcode byte and the operand bytes of a well-formed instruction, finds it. -/
theorem decodeEntry_bytes {i : Instr} {r : Row} (hr : rowOf i.mnemonic i.operand.format = some r) (hi : i.wf = true)
    (rest : List Byte) :
    decodeEntry r.page (r.opcode :: (i.operand.bytes ++ rest)) = .found i r.opcode (i.operand.bytes.length + 1) := by
  obtain ⟨hm, hf⟩ := rowOf_key hr
  have lookup := opFind_row r (rowOf_mem hr)
  have operand := decodeOperand_bytes i.operand (i.wf_operand hi) rest
  have made := (Laws.Encoding.all i).2
  simp only [decodeEntry, lookup, hf, operand, hm, made]

/-- An entry that selects no page is the whole instruction (R104). -/
theorem decode_of_first {bs : List Byte} {i : Instr} {o : Byte} {n : Nat} (first : decodeEntry .p0 bs = .found i o n)
    (page : i.selectsPage = .p0) : decode bs = .instr i n := by
  simp only [decode, first, page, if_true]

/-- After an entry that selects a page the second lookup is on that page (R103, R104). -/
theorem decode_of_second {bs : List Byte} {i j : Instr} {o o' : Byte} {n k : Nat}
    (first : decodeEntry .p0 bs = .found i o n) (page : i.selectsPage ≠ .p0)
    (second : decodeEntry i.selectsPage (bs.drop n) = .found j o' k) : decode bs = .instr j (n + k) := by
  simp only [decode, first, page, second, if_false]

/-- What one lookup finds on a page, the decoder finds after the bytes that select the page. -/
theorem decode_of_decodeEntry {p : Page} {bs : List Byte} {i : Instr} {o : Byte} {n : Nat}
    (h : decodeEntry p bs = .found i o n) (hi : i.selectsPage = .p0) :
    decode (p.bytes ++ bs) = .instr i (p.bytes.length + n) := by
  cases p with
  | p0 => simpa using decode_of_first h hi
  | p10 => exact decode_of_second (i := .prefix10) (o := 0x10) (n := 1) rfl (by decide) h
  | p11 => exact decode_of_second (i := .prefix11) (o := 0x11) (n := 1) rfl (by decide) h

/-- Settles O1: the instruction's row is found again by its opcode and page, and its operand by its bytes. -/
theorem decodeEncodeRoundTrip : Obligations.DecodeEncodeRoundTrip := by
  intro i rest wf notPrefix
  obtain ⟨r, hr⟩ := Option.isSome_iff_exists.mp (Laws.Encoding.all i).1
  have whole := decode_of_decodeEntry (decodeEntry_bytes hr wf rest) notPrefix
  simpa [encode_of_rowOf hr, Row.emit] using whole

/-! ### Encoding what was decoded: the operand bytes (R91 to R102, R119) -/

theorem takeByte_eq_some {α : Type} {k : Byte → α} {bs : List Byte} {a : α} {n : Nat} (h : takeByte k bs = some (a, n)) :
    ∃ v, a = k v ∧ [v] <+: bs ∧ n = 1 := by
  match bs, h with
  | v :: rest, h =>
    cases h
    exact ⟨v, rfl, List.prefix_append [v] rest, rfl⟩

theorem takeWord_eq_some {α : Type} {k : Word → α} {bs : List Byte} {a : α} {n : Nat} (h : takeWord k bs = some (a, n)) :
    ∃ w, a = k w ∧ wordBytes w <+: bs ∧ n = 2 := by
  match bs, h with
  | hi :: lo :: rest, h =>
    cases h
    exact ⟨wordOf hi lo, rfl, by simp [wordBytes], rfl⟩

theorem PairReg.code_ofCode : ∀ c : BitVec 4, (PairReg.ofCode c).code = c := by decide

/-- A decoded sub-mode has the code and the extra bytes it was read from. -/
theorem decodeMode_eq_some {c : BitVec 4} {bs : List Byte} {m : IdxMode} {n : Nat} (h : decodeMode c bs = some (m, n)) :
    m.code = c ∧ m.extra <+: bs ∧ n = m.extra.length := by
  have code {k : BitVec 4} {j : Nat} (hc : c.toNat = j) (hk : k.toNat = j := by rfl) : k = c :=
    BitVec.eq_of_toNat_eq (hk.trans hc.symm)
  unfold decodeMode at h
  -- The codes 8 and C take a byte, the codes 9, D and F a word; the last branch is that of the undefined codes.
  split at h
  case h_8 hc | h_11 hc =>
    obtain ⟨v, rfl, hv, hn⟩ := takeByte_eq_some h
    exact ⟨code hc, hv, hn⟩
  case h_9 hc | h_12 hc | h_13 hc =>
    obtain ⟨w, rfl, hw, hn⟩ := takeWord_eq_some h
    exact ⟨code hc, hw, hn⟩
  case h_14 =>
    cases h
    exact ⟨rfl, List.nil_prefix, rfl⟩
  all_goals
    cases h
    exact ⟨code ‹_›, List.nil_prefix, rfl⟩

/-- A decoded indexed operand has the bytes it was read from (R97). -/
theorem decodeIndex_eq_some {bs : List Byte} {ix : Index} {n : Nat} (h : decodeIndex bs = some (ix, n)) :
    ix.bytes <+: bs ∧ n = ix.bytes.length := by
  match bs, h with
  | pb :: rest, h =>
    obtain ⟨offset, mode⟩ := postbyte_fields pb
    simp only [decodeIndex] at h
    split at h
    next sub =>
      obtain ⟨⟨m, k⟩, hm, hk⟩ := Option.map_eq_some_iff.mp h
      cases hk
      obtain ⟨code, extra, len⟩ := decodeMode_eq_some hm
      have postbyte := (mode sub).symm
      rw [← code] at postbyte
      exact ⟨List.cons_prefix_cons.mpr ⟨postbyte, extra⟩, congrArg (· + 1) len⟩
    next short =>
      cases h
      exact ⟨List.cons_prefix_cons.mpr ⟨(offset (Bool.eq_false_iff.mpr short)).symm, List.nil_prefix⟩, rfl⟩

/-- A decoded operand is of the format it was read by, and has the bytes it was read from (R91). -/
theorem decodeOperand_eq_some {f : Format} {bs : List Byte} {o : Operand} {n : Nat} (h : decodeOperand f bs = some (o, n)) :
    o.format = f ∧ o.bytes <+: bs ∧ n = o.bytes.length := by
  cases f with
  | inh | pager =>
    cases h
    exact ⟨rfl, List.nil_prefix, rfl⟩
  | imm8 | dir | rel8 | rlist =>
    obtain ⟨v, rfl, hv⟩ := takeByte_eq_some h
    exact ⟨rfl, hv⟩
  | imm16 | ext | rel16 =>
    obtain ⟨w, rfl, hw⟩ := takeWord_eq_some h
    exact ⟨rfl, hw⟩
  | idx =>
    obtain ⟨⟨ix, k⟩, hix, hk⟩ := Option.map_eq_some_iff.mp h
    cases hk
    exact ⟨rfl, decodeIndex_eq_some hix⟩
  | rpair =>
    obtain ⟨pb, rfl, hpb, hn⟩ := takeByte_eq_some h
    have halves : pb.extractLsb' 4 4 ++ pb.extractLsb' 0 4 = pb := by
      exact (BitVec.extractLsb'_append_extractLsb'_eq_extractLsb' rfl).trans BitVec.extractLsb'_eq_self
    refine ⟨rfl, ?_, hn⟩
    simpa only [Operand.bytes, PairReg.code_ofCode, halves] using hpb

@[simp] theorem length_wordBytes (w : Word) : (wordBytes w).length = 2 := rfl

theorem IdxMode.length_extra_le (m : IdxMode) : m.extra.length ≤ 2 := by
  cases m <;> simp [IdxMode.extra]

theorem Index.length_bytes_le (ix : Index) : ix.bytes.length ≤ 3 := by
  cases ix with
  | off5 r n => simp [Index.bytes]
  | mode r i m => exact Nat.succ_le_succ m.length_extra_le

theorem Operand.length_bytes_le (o : Operand) : o.bytes.length ≤ 3 := by
  cases o with
  | idx ix => exact ix.length_bytes_le
  | _ => simp [Operand.bytes]

theorem Page.length_bytes_le (p : Page) : p.bytes.length ≤ 1 := by cases p <;> decide

/-! ### Encoding what was decoded: the instruction (R103 to R105) -/

theorem Operand.operand_of_mem {o : Operand} {x : MemOp} (h : o.mem = some x) : x.operand = o := by
  cases o <;> cases h <;> rfl

theorem Operand.operand_of_src8 {o : Operand} {x : Src8} (h : o.src8 = some x) : x.operand = o := by
  cases o <;> cases h <;> rfl

theorem Operand.operand_of_src16 {o : Operand} {x : Src16} (h : o.src16 = some x) : x.operand = o := by
  cases o <;> cases h <;> rfl

/-- An instruction made of a mnemonic and an operand has both (R105). -/
theorem Instr.make_eq_some {m : Mnemonic} {o : Operand} {i : Instr} (h : Instr.make m o = some i) :
    i.mnemonic = m ∧ i.operand = o := by
  cases m with
  | lda | ldb | adda | addb | adca | adcb | suba | subb | sbca | sbcb | cmpa | cmpb | anda | andb | ora | orb | eora | eorb
  | bita | bitb =>
    obtain ⟨x, hx, rfl⟩ := Option.map_eq_some_iff.mp h
    exact ⟨rfl, Operand.operand_of_src8 hx⟩
  | ldd | ldx | ldy | ldu | lds | addd | subd | cmpd | cmpx | cmpy | cmpu | cmps =>
    obtain ⟨x, hx, rfl⟩ := Option.map_eq_some_iff.mp h
    exact ⟨rfl, Operand.operand_of_src16 hx⟩
  | sta | stb | std | stx | sty | stu | sts | neg | inc | dec | tst | clr | com | lsr | ror | asr | lsl | rol | jsr | jmp =>
    obtain ⟨x, hx, rfl⟩ := Option.map_eq_some_iff.mp h
    exact ⟨rfl, Operand.operand_of_mem hx⟩
  | _ =>
    -- Every other mnemonic admits one format only.
    cases o <;> cases h
    exact ⟨rfl, rfl⟩

/-- What one lookup finds: a row of the page and an operand read by its format (R104, R142). -/
theorem decodeEntry_eq_found {p : Page} {bs : List Byte} {i : Instr} {op : Byte} {n : Nat}
    (h : decodeEntry p bs = .found i op n) :
    ∃ r ∈ opcodeTable, ∃ rest o k, r.page = p ∧ bs = r.opcode :: rest ∧ decodeOperand r.format rest = some (o, k) ∧
      Instr.make r.mnemonic o = some i ∧ n = k + 1 := by
  match bs, h with
  | b :: rest, h =>
    cases lookup : opFind b p with
    | none => simp [decodeEntry, lookup] at h
    | some r =>
      obtain ⟨rfl, rfl⟩ := opFind_key lookup
      cases operand : decodeOperand r.format rest with
      | none => simp [decodeEntry, lookup, operand] at h
      | some x =>
        obtain ⟨o, k⟩ := x
        cases made : Instr.make r.mnemonic o with
        | none => simp [decodeEntry, lookup, operand, made] at h
        | some j =>
          simp only [decodeEntry, lookup, operand, made] at h
          cases h
          exact ⟨r, opFind_mem lookup, rest, o, k, rfl, rfl, operand, made, rfl⟩

/-- An entry that selects a page is the byte that the page's instructions begin with (R103). -/
theorem decodeEntry_prefix {bs : List Byte} {i : Instr} {op : Byte} {n : Nat} (h : decodeEntry .p0 bs = .found i op n)
    (page : i.selectsPage ≠ .p0) : i.selectsPage.bytes ++ bs.drop n = bs ∧ n = i.selectsPage.bytes.length := by
  obtain ⟨r, hr, rest, o, k, -, rfl, operand, made, rfl⟩ := decodeEntry_eq_found h
  obtain rfl := (Machine.make_selectsPage made).resolve_left page
  obtain rfl | rfl := pager_rows r hr (Machine.decodeOperand_pager operand)
  · cases made; cases operand; exact ⟨rfl, rfl⟩
  · cases made; cases operand; exact ⟨rfl, rfl⟩

/-- What the decoder finds is the bytes that select a page, and what one lookup finds on that page after them. -/
theorem decode_eq_instr {bs : List Byte} {i : Instr} {n : Nat} (h : decode bs = .instr i n) :
    ∃ p rest op k, bs = Page.bytes p ++ rest ∧ decodeEntry p rest = .found i op k ∧ n = p.bytes.length + k := by
  unfold decode at h
  split at h
  · cases h
  · cases h
  next j op k first =>
    split at h
    · cases h
      exact ⟨.p0, bs, op, n, rfl, first, (Nat.zero_add n).symm⟩
    next page =>
      obtain ⟨whole, len⟩ := decodeEntry_prefix first page
      split at h
      · cases h
      · cases h
      next op' k' second =>
        cases h
        exact ⟨j.selectsPage, bs.drop k, op', k', whole.symm, second, by rw [len]⟩

/-- The decoded instruction's row is the one the lookup found. -/
theorem encode_of_decodeEntry {p : Page} {bs : List Byte} {i : Instr} {op : Byte} {n : Nat}
    (h : decodeEntry p bs = .found i op n) :
    ∃ bytes, encode i = p.bytes ++ bytes ∧ bytes <+: bs ∧ n = bytes.length ∧ 1 ≤ n ∧ n ≤ 4 := by
  obtain ⟨r, hr, rest, o, k, rfl, rfl, operand, made, rfl⟩ := decodeEntry_eq_found h
  obtain ⟨format, read, rfl⟩ := decodeOperand_eq_some operand
  obtain ⟨mnemonic, rfl⟩ := Instr.make_eq_some made
  have row := rowOf_row r hr
  rw [← mnemonic, ← format] at row
  have short := i.operand.length_bytes_le
  exact ⟨r.opcode :: i.operand.bytes, encode_of_rowOf row, List.cons_prefix_cons.mpr ⟨rfl, read⟩, rfl, by omega, by omega⟩

/-- Settles O2: the row the lookup found is the one the encoder writes, with the operand's bytes as they were read. -/
theorem encodeDecodeRoundTrip : Obligations.EncodeDecodeRoundTrip := by
  intro bs i n h
  obtain ⟨p, rest, op, k, rfl, entry, rfl⟩ := decode_eq_instr h
  obtain ⟨bytes, encoded, read, rfl, pos, le⟩ := encode_of_decodeEntry entry
  have page := p.length_bytes_le
  have whole : encode i <+: p.bytes ++ rest := encoded ▸ (List.prefix_append_right_inj p.bytes).mpr read
  have len : (encode i).length = p.bytes.length + bytes.length := by rw [encoded, List.length_append]
  rw [← len]
  exact ⟨List.prefix_iff_eq_take.mp whole, by omega, by omega, whole.length_le⟩

/-! ### The table (R110 to R118) -/

/-- Settles O3: the decoder runs on each of the twelve strings. -/
theorem decodeSampleWords : Obligations.DecodeSampleWords :=
  ⟨rfl, rfl, rfl, rfl, rfl, rfl, rfl, rfl, rfl, rfl, rfl, rfl⟩

/-- The opcodes the table has on a page, in the order of its rows. -/
def assignedOpcodes (p : Page) : List Byte := (opcodeTable.filter fun r => r.page == p).map Row.opcode

/-- The lookup finds an entry exactly for the page's opcodes (R142). -/
theorem opFind_ne_none_iff {b : Byte} {p : Page} : opFind b p ≠ none ↔ b ∈ assignedOpcodes p := by
  simp [opFind, assignedOpcodes, and_assoc, and_comm, and_left_comm]

/-- The slots of page 0 that R118 lists as unassigned. -/
def unassignedSlotsOfPage0 : List Byte :=
  [0x01, 0x02, 0x05, 0x0B, 0x14, 0x15, 0x18, 0x1B, 0x38, 0x3E, 0x41, 0x42, 0x45, 0x4B, 0x4E, 0x51, 0x52, 0x55, 0x5B, 0x5E,
    0x61, 0x62, 0x65, 0x6B, 0x71, 0x72, 0x75, 0x7B, 0x87, 0x8F, 0xC7, 0xCD, 0xCF]

/-- Page 0 assigns every other byte, in ascending order. -/
theorem assignedOpcodes_p0 : assignedOpcodes .p0 =
    ((List.range 256).map (BitVec.ofNat 8)).filter fun b => !unassignedSlotsOfPage0.contains b := by
  decide +kernel

theorem mem_assignedOpcodes_p0 {b : Byte} : b ∈ assignedOpcodes .p0 ↔ b ∉ unassignedSlotsOfPage0 := by
  have isByte : b ∈ (List.range 256).map (BitVec.ofNat 8) :=
    List.mem_map.mpr ⟨b.toNat, List.mem_range.mpr b.isLt, BitVec.ofNat_toNat 8 b⟩
  rw [assignedOpcodes_p0]
  simp [List.mem_filter, isByte]

theorem assignedOpcodes_p10 : assignedOpcodes .p10 = rowsPage10.map Row.opcode := by decide +kernel

theorem assignedOpcodes_p11 : assignedOpcodes .p11 = rowsPage11.map Row.opcode := by decide +kernel

/-- Settles O4: page 0 assigns all but the listed bytes; on the other pages the list is the table's, in another order. -/
theorem unassignedSlots : Obligations.UnassignedSlots := by
  refine ⟨fun b => ?_, fun b => ?_, fun b => ?_⟩
  · have page0 : opFind b .p0 ≠ none ↔ b ∉ unassignedSlotsOfPage0 := opFind_ne_none_iff.trans mem_assignedOpcodes_p0
    exact not_iff_not.mp page0
  · exact (assignedOpcodes_p10 ▸ opFind_ne_none_iff).trans (List.Perm.mem_iff (by decide +kernel))
  · exact (assignedOpcodes_p11 ▸ opFind_ne_none_iff).trans (List.Perm.mem_iff (by decide +kernel))

end Sys2Proof
end

section
/-! PROOF. An undefined postbyte code (R119, R600): every instruction that can hold one raises `IllegalOpcode` and does nothing
else. -/

namespace Sys2Proof.Machine

/-- Where the policy goes on, the raise is the event, page 0 and the count (R600; log 8). -/
theorem State.raiseIllegal_proceed {s : State} (h : s.cfg.illegalPolicy = .proceed) :
    s.raiseIllegal = .next { s with
      page := .p0, illegalCount := s.illegalCount + 1, events := s.events ++ [.illegalOpcode s.op s.page] } := by
  rcases s.raiseIllegal_cases with ⟨halts, -⟩ | ⟨-, next⟩
  · simp [h, policyHalts] at halts
  · exact next

/-- An operand that resolves exactly when it is well formed raises when it is not. -/
theorem State.orIllegal_of_illFormed {s : State} {resolved : Option State} {k : State → State} {wf : Bool}
    (hr : resolved.isSome = wf) (hw : wf = false) : s.orIllegal resolved k = s.raiseIllegal := by
  cases resolved with
  | none => rfl
  | some t => cases hr.trans hw

theorem cmpx_of_illFormed {src : Src16} {s : State} (hw : src.wf = false) : execCmpx src s = s.raiseIllegal := by
  unfold execCmpx
  split
  · exact State.orIllegal_of_illFormed (s.operand16r2_isSome src) hw
  · exact State.orIllegal_of_illFormed (s.operand16r2_isSome src) hw

theorem tfr_of_illFormed {p q : PairReg} {s : State} (hw : (p.wf && q.wf) = false) : execTfr p q s = s.raiseIllegal := by
  rcases p with p | c <;> rcases q with q | d
  · cases hw
  all_goals rfl

theorem exg_of_illFormed {p q : PairReg} {s : State} (hw : (p.wf && q.wf) = false) : execExg p q s = s.raiseIllegal := by
  rcases p with p | c <;> rcases q with q | d
  · cases hw
  all_goals rfl

/-- An ill-formed instruction does nothing but raise (R119). -/
theorem exec_of_illFormed {i : Instr} (hw : i.wf = false) (s : State) : exec i s = s.raiseIllegal := by
  cases i with
  | lda x | ldb x => exact State.orIllegal_of_illFormed (s.operand8r1_isSome x) hw
  | ldd x | ldx x | ldy x | ldu x | lds x => exact State.orIllegal_of_illFormed (s.operand16r1_isSome x) hw
  | adda x | addb x | adca x | adcb x | suba x | subb x | sbca x | sbcb x | cmpa x | cmpb x | anda x | andb x | ora x | orb x
  | eora x | eorb x | bita x | bitb x => exact State.orIllegal_of_illFormed (s.operand8r2_isSome x) hw
  | addd x | subd x | cmpd x | cmpy x | cmpu x | cmps x => exact State.orIllegal_of_illFormed (s.operand16r2_isSome x) hw
  | cmpx x => exact cmpx_of_illFormed hw
  | sta m | stb m | std m | stx m | sty m | stu m | sts m | neg m | inc m | dec m | tst m | clr m | com m | lsr m | ror m
  | asr m | lsl m | rol m | jsr m | jmp m => exact State.orIllegal_of_illFormed (s.resolveEA_isSome m) hw
  | leax ix | leay ix | leas ix | leau ix => exact State.orIllegal_of_illFormed (s.indx_isSome ix) hw
  | tfr p q => exact tfr_of_illFormed hw
  | exg p q => exact exg_of_illFormed hw
  | _ => cases hw

/-- Settles O7: every ill-formed instruction is the raise, and under the policy that goes on the raise is that state. -/
theorem undefinedPostbyteRaises : Obligations.UndefinedPostbyteRaises := by
  intro i s hw policy
  rw [exec_of_illFormed hw, State.raiseIllegal_proceed policy]

end Sys2Proof.Machine
end

section
/-! PROOF. Addressing (R152 to R156, R260): the effective address and the base register's update of every form, and that no
other register moves. -/

namespace Sys2Proof.Machine

open Sys2Proof.Claims

/-- An indexed mode is its sub-mode's address, read through once, after the update, when the indirect bit is set (R156). -/
theorem State.indx_mode {s u : State} {r : IdxReg} {m : IdxMode} (ind : Bool) (h : s.formEA (baseReg r) m = some u) :
    s.indx (.mode r ind m) = some (if ind then { u with ea := wordAt u u.ea } else u) :=
  congrArg (Option.map _) h

/-- Settles O25: each sub-mode's address is formed by its row of the table, and then perhaps read through. -/
theorem indexedAddress : Obligations.IndexedAddress := fun s _ =>
  ⟨fun _ => rfl, fun ind =>
    ⟨s.indx_mode ind rfl, s.indx_mode ind rfl, s.indx_mode ind rfl, s.indx_mode ind rfl, s.indx_mode ind rfl,
      s.indx_mode ind rfl, s.indx_mode ind rfl, fun _ => s.indx_mode ind rfl, fun _ => s.indx_mode ind rfl,
      s.indx_mode ind rfl, fun _ => s.indx_mode ind rfl, fun _ => s.indx_mode ind rfl, fun _ => s.indx_mode ind rfl,
      fun _ => rfl⟩⟩

/-- The direct page and a byte, as a number (R152). -/
theorem wordOf_eq_ofNat (hi lo : Byte) : wordOf hi lo = BitVec.ofNat 16 (256 * hi.toNat + lo.toNat) := by
  rw [← toNat_wordOf, BitVec.ofNat_toNat, BitVec.setWidth_eq]

theorem parts_baseReg (r : IdxReg) : parts (baseReg r) = [baseReg r] := by cases r <;> rfl

/-- A sub-mode writes its base register, perhaps with its own value, and EA (R156). -/
theorem State.formEA_eq_some {s u : State} {r : IdxReg} {m : IdxMode} (h : s.formEA (baseReg r) m = some u) :
    ∃ v e, u = { s.setReg (baseReg r) v with ea := e } := by
  have kept : s.setReg (baseReg r) (s.reg (baseReg r)) = s := by cases r <;> rfl
  cases m with
  | inc1 | inc2 | dec1 | dec2 => cases h; exact ⟨_, _, rfl⟩
  | undefined c => cases h
  | _ => cases h; exact ⟨s.reg (baseReg r), _, by rw [kept]⟩

/-- No register but its base moves under an indexed mode, read through or not. -/
theorem State.indx_mode_regs {s u : State} {r : IdxReg} {ind : Bool} {m : IdxMode} (h : s.indx (.mode r ind m) = some u) :
    SameRegs [baseReg r] s u := by
  obtain ⟨t, ht, rfl⟩ := Option.map_eq_some_iff.mp h
  obtain ⟨v, e, rfl⟩ := State.formEA_eq_some ht
  intro q hq hn
  have other : (s.setReg (baseReg r) v).reg q = s.reg q :=
    s.reg_setReg_other v (by rintro rfl; simp at hq) (parts_baseReg r ▸ hn)
  have ea (t : State) (e : Word) : ({ t with ea := e } : State).reg q = t.reg q := by cases q <;> rfl
  split <;> simp only [ea, other]

/-- Settles O26: the rules of `ResolveEA`, and for each form the registers it leaves. -/
theorem addressingFrame : Obligations.AddressingFrame := by
  intro s m
  refine ⟨s.resolveEA_isSome m, ?_, ?_, fun u h => ⟨State.resolveEA_addressed h, ?_, ?_⟩⟩
  · rintro lo rfl
    rw [← wordOf_eq_ofNat]
    rfl
  · rintro a rfl
    rfl
  · rintro r n rfl
    cases h
    intro q _ _
    cases q <;> rfl
  · rintro r ind i rfl
    exact State.indx_mode_regs h

end Sys2Proof.Machine
end

section
/-! PROOF. A step outside Running (R140, R606 to R608): the interrupt check alone, by what may be serviced. Before it the meanings
that write the run state or the page and nothing else (R168, R170, R174). -/

namespace Sys2Proof.Machine

open Sys2Proof.Claims

/-- Settles O53: the four meanings that write one field or none. -/
theorem syncNopPrefix : Obligations.SyncNopPrefix := fun _ => ⟨rfl, rfl, rfl, rfl⟩

/-! ### The interrupt check (R606, R607) -/

/-- The controller accepts the first kind in the order of priority that may be serviced (R606). -/
theorem State.accepted_eq (s : State) : s.accepted =
    if serviceable s .reset then some .reset else if serviceable s .nmi then some .nmi
    else if serviceable s .firq then some .firq else if serviceable s .irq then some .irq else none := by
  simp [State.accepted, serviceable, Latches.get]

theorem State.accepted_eq_none {s : State} (h : ∀ k, serviceable s k = false) : s.accepted = none := by
  simp [State.accepted_eq, h]

theorem State.accepted_eq_some {s : State} {k : IntKind} (h : serviceable s k = true)
    (first : ∀ j, priority j < priority k → serviceable s j = false) : s.accepted = some k := by
  rw [State.accepted_eq]
  cases k with
  | reset => simp [h]
  | nmi => simp [h, first .reset (by decide)]
  | firq => simp [h, first .reset (by decide), first .nmi (by decide)]
  | irq => simp [h, first .reset (by decide), first .nmi (by decide), first .firq (by decide)]

/-- What may be serviced is latched. -/
theorem any_of_serviceable {s : State} {k : IntKind} (h : serviceable s k = true) : s.latches.any = true := by
  cases k <;> simp_all [serviceable, Latches.get, Latches.any]

/-- The state whose latches the check looks at: a latch has ended Syncing (R607). -/
def State.awake (s : State) : State := if s.run = .syncing ∧ s.latches.any then { s with run := .running } else s

theorem State.serviceable_awake (s : State) (k : IntKind) : serviceable s.awake k = serviceable s k := by
  unfold State.awake
  split <;> rfl

/-- With nothing to service the check wakes a Syncing machine at most. -/
theorem State.checkInterrupts_of_none {s : State} (h : ∀ k, serviceable s k = false) : s.checkInterrupts = s.awake := by
  have rejected : s.awake.accepted = none := State.accepted_eq_none fun k => (s.serviceable_awake k).trans (h k)
  rcases s.checkInterrupts_cases with ⟨k, -, accepted⟩ | ⟨same, -⟩
  · cases accepted.symm.trans rejected
  · exact same

/-- The check is the service of the first kind that may be serviced. -/
theorem State.checkInterrupts_of_first {s : State} {k : IntKind} (h : serviceable s k = true)
    (first : ∀ j, priority j < priority k → serviceable s j = false) : s.checkInterrupts = s.awake.service k := by
  have accepts : s.awake.accepted = some k :=
    State.accepted_eq_some ((s.serviceable_awake k).trans h) fun j hj => (s.serviceable_awake j).trans (first j hj)
  rcases s.checkInterrupts_cases with ⟨j, serves, accepted⟩ | ⟨-, rejected⟩
  · cases accepted.symm.trans accepts
    exact serves
  · cases rejected.symm.trans accepts

theorem step_of_not_running {s : State} (h : s.run ≠ .running) : step s = .next s.beginCommand.checkInterrupts := by
  unfold step State.runStep
  cases hr : s.run with
  | running => exact absurd hr h
  | waiting | syncing => rfl

/-- Settles O13: outside Running a step is the check, which has the three cases of the statement. -/
theorem stepIdle : Obligations.StepIdle := by
  intro s idle
  have begun (k : IntKind) : serviceable s.beginCommand k = serviceable s k := by cases k <;> rfl
  rw [step_of_not_running idle]
  refine ⟨fun masked quiet => ?_, fun masked sync any => ?_, fun k h first => ?_⟩
  · have asleep : ¬(s.run = .syncing ∧ s.latches.any = true) := by
      rintro ⟨sync, any⟩
      rcases quiet with wait | clear
      · cases sync.symm.trans wait
      · cases any.symm.trans clear
    rw [State.checkInterrupts_of_none fun k => (begun k).trans (masked k)]
    exact congrArg _ (if_neg asleep)
  · rw [State.checkInterrupts_of_none fun k => (begun k).trans (masked k)]
    exact congrArg _ (if_pos ⟨sync, any⟩)
  · rw [State.checkInterrupts_of_first ((begun k).trans h) fun j hj => (begun j).trans (first j hj)]
    have awake : s.beginCommand.awake = { s with events := [], run := if s.run = .syncing then .running else s.run } := by
      have any : s.latches.any = true := any_of_serviceable h
      show (if s.run = .syncing ∧ s.latches.any then _ else _) = _
      by_cases sync : s.run = .syncing
      · simp [sync, any, State.beginCommand]
      · simp [sync, State.beginCommand]
    rw [awake]

end Sys2Proof.Machine
end

section
/-! PROOF. A step of a Running machine (R140 to R143): the lookups of a cycle find what the decoder reads from the bytes at PC,
and the instruction runs in the state with PC past them. -/

namespace Sys2Proof

/-- A lookup reads four bytes at most (R90, R104). -/
theorem decodeEntry_five (p : Page) (a b c d e : Byte) : decodeEntry p [a, b, c, d, e] = decodeEntry p [a, b, c, d] := by
  simp only [decodeEntry, (Machine.decodeOperand_three _ b c d e).1]

/-- A lookup finds an entry for the first byte. -/
theorem decodeEntry_opcode {p : Page} {b op : Byte} {bs : List Byte} {i : Instr} {n : Nat}
    (h : decodeEntry p (b :: bs) = .found i op n) : op = b := by
  simp only [decodeEntry] at h
  repeat' split at h
  all_goals cases h
  rfl

/-- A lookup on another page than 0 finds no prefix entry (R103). -/
theorem decodeEntry_selectsPage {p : Page} {bs : List Byte} {op : Byte} {i : Instr} {n : Nat}
    (h : decodeEntry p bs = .found i op n) (hp : p ≠ .p0) : i.selectsPage = .p0 := by
  by_contra page
  obtain ⟨r, hr, rest, o, k, rfl, -, operand, made, -⟩ := decodeEntry_eq_found h
  obtain rfl := (Machine.make_selectsPage made).resolve_left page
  obtain rfl | rfl := pager_rows r hr (Machine.decodeOperand_pager operand) <;> exact hp rfl

/-- An instruction that the decoder answers is found by the first lookup, which selects no page, or by a second on the page that
the first byte selects. -/
theorem decode_cases {bs : List Byte} {i : Instr} {n : Nat} (h : decode bs = .instr i n) :
    (∃ op, decodeEntry .p0 bs = .found i op n ∧ i.selectsPage = .p0) ∨
    (∃ j op k op' m, decodeEntry .p0 bs = .found j op k ∧ j.selectsPage ≠ .p0 ∧
      decodeEntry j.selectsPage (bs.drop k) = .found i op' m ∧ n = k + m) := by
  unfold decode at h
  split at h
  · cases h
  · cases h
  next j op k first =>
    split at h
    next page =>
      cases h
      exact .inl ⟨op, first, page⟩
    next page =>
      split at h
      · cases h
      · cases h
      next op' m second =>
        cases h
        exact .inr ⟨j, op, k, op', m, first, page, second, rfl⟩

end Sys2Proof

namespace Sys2Proof.Machine

open Sys2Proof.Claims

/-- Fetching `n` bytes moves PC past them, with one notification for each (R24, R150). -/
theorem State.advance_eq (s : State) (n : Nat) : s.advance n = { s with
    pc := s.pc + BitVec.ofNat 16 n
    events := s.events ++ (List.range n).map fun k => .pcNotify (s.pc + BitVec.ofNat 16 (k + 1)) } := by
  induction n generalizing s with
  | zero => simp [State.advance]
  | succ n ih =>
    have next (k : Nat) : s.pc + 1 + BitVec.ofNat 16 k = s.pc + BitVec.ofNat 16 (k + 1) := by
      rw [BitVec.add_assoc, Nat.add_comm k 1, BitVec.ofNat_add]
      rfl
    rw [State.advance, ih]
    refine congrArg₂ (fun pc events => { s with pc := pc, events := events }) (next n) ?_
    rw [List.range_succ_eq_map, List.map_cons, List.map_map, State.setPc_events, List.append_assoc]
    simp only [State.setPc_pc, next]
    rfl

theorem State.advance_add (s : State) (m n : Nat) : s.advance (m + n) = (s.advance m).advance n := by
  induction m generalizing s with
  | zero => rw [Nat.zero_add]; rfl
  | succ m ih => rw [Nat.add_right_comm]; exact ih (s.setPc (s.pc + 1))

/-- The page and the opcode byte are no part of a fetch. -/
theorem State.advance_marked (s : State) (p : Page) (o : Byte) (n : Nat) :
    ({ s with page := p, op := o } : State).advance n = { s.advance n with page := p, op := o } := by
  rw [State.advance_eq, State.advance_eq]

/-- The state an instruction runs in is that of the start of the cycle after its bytes, with page and opcode recorded. -/
theorem fetched_eq (s : State) (n : Nat) :
    fetched s n = { s.beginCommand.beginCycle.advance n with page := pageAt s, op := opcodeAt s } := by
  rw [State.advance_eq]
  rfl

theorem State.fetchExecute_of_found {s : State} {i : Instr} {op : Byte} {n : Nat}
    (h : decodeEntry s.page s.fetchWindow = .found i op n) : s.fetchExecute = exec i { s.advance n with op := op } := by
  rw [State.fetchExecute, h]

/-- The prefix entries by their byte (R103, R490, R491). -/
theorem decodeEntry_stream_prefix {s : State} {j : Instr} {op : Byte} {k : Nat}
    (h : decodeEntry .p0 (stream s) = .found j op k) (page : j.selectsPage ≠ .p0) :
    k = 1 ∧ pageAt s = j.selectsPage ∧ ∀ u, exec j u = .next { u with page := j.selectsPage } := by
  obtain ⟨whole, len⟩ := decodeEntry_prefix h page
  cases j with
  | prefix10 =>
    have first : s.peek s.pc = 0x10 := (List.cons.inj whole).1.symm
    exact ⟨len, by simp [pageAt, first, Instr.selectsPage], fun _ => rfl⟩
  | prefix11 =>
    have first : s.peek s.pc = 0x11 := (List.cons.inj whole).1.symm
    exact ⟨len, by simp [pageAt, first, Instr.selectsPage], fun _ => rfl⟩
  | _ => exact absurd rfl page

/-- Where the first lookup selects no page, the bytes at PC begin with no prefix. -/
theorem pageAt_of_first {s : State} {i : Instr} {op : Byte} {n : Nat} (h : decodeEntry .p0 (stream s) = .found i op n)
    (page : i.selectsPage = .p0) : pageAt s = .p0 := by
  unfold pageAt
  split
  next hp => rw [stream, hp] at h; cases h; cases page
  next =>
    split
    next hp => rw [stream, hp] at h; cases h; cases page
    next => rfl

/-- The two lookups of a cycle from its start are the decoded instruction, run after its bytes (R140, R141). -/
theorem State.lookups_of_decode {s : State} {i : Instr} {n : Nat} (h : decode (stream s) = .instr i n) :
    (onNext s.beginCommand.beginCycle.fetchExecute fun t =>
      onNext (if t.page = .p0 then .next t else t.fetchExecute) fun u => .next u.endCycle) =
      onNext (exec i (fetched s n)) fun u => .next u.endCycle := by
  rcases decode_cases h with ⟨op, first, page⟩ | ⟨j, op, k, op', m, first, page, second, rfl⟩
  · have page0 : pageAt s = .p0 := pageAt_of_first first page
    have opcode : op = opcodeAt s := by rw [opcodeAt, if_pos page0]; exact decodeEntry_opcode first
    have start : s.beginCommand.beginCycle.fetchExecute = exec i (fetched s n) := by
      rw [State.fetchExecute_of_found ((decodeEntry_five _ _ _ _ _ _).symm.trans first), fetched_eq, page0, opcode,
        State.advance_eq]
      rfl
    rw [start]
    cases run : exec i (fetched s n) with
    | fault r => rfl
    | refused r => rfl
    | next t =>
      have back : t.page = .p0 := (exec_page run page).elim (fun same => same.trans page0) id
      simp only [onNext, back, if_true]
  · obtain ⟨rfl, pageS, marks⟩ := decodeEntry_stream_prefix first page
    have start : s.beginCommand.beginCycle.fetchExecute =
        .next { s.beginCommand.beginCycle.advance 1 with page := pageAt s, op := op } := by
      rw [State.fetchExecute_of_found ((decodeEntry_five _ _ _ _ _ _).symm.trans first), marks, pageS]
    have opcode : op' = opcodeAt s := by
      rw [opcodeAt, if_neg (pageS ▸ page)]
      exact decodeEntry_opcode second
    have window : State.fetchWindow { s.beginCommand.beginCycle.advance 1 with page := pageAt s, op := op } =
        (stream s).drop 1 := by
      show [s.peek (s.pc + 1), s.peek (s.pc + 1 + 1), s.peek (s.pc + 1 + 2), s.peek (s.pc + 1 + 3)] = _
      simp only [BitVec.add_assoc]
      rfl
    have go : State.fetchExecute { s.beginCommand.beginCycle.advance 1 with page := pageAt s, op := op } =
        exec i (fetched s (1 + m)) := by
      rw [State.fetchExecute_of_found (window ▸ pageS ▸ second), State.advance_marked, ← State.advance_add, fetched_eq,
        opcode]
    rw [start]
    simp only [onNext, if_neg (pageS ▸ page), go]

theorem onNext_assoc (o : Outcome) (f g : State → Outcome) : onNext (onNext o f) g = onNext o fun t => onNext (f t) g := by
  cases o <;> rfl

theorem step_of_running {s : State} (h : s.run = .running) :
    step s = onNext s.beginCommand.cycle fun t => .next t.checkInterrupts := by
  unfold step State.runStep
  rw [h]

/-- A record that is no prefix ends the loop of R140 after its program. -/
theorem State.fetchLoop_of_plain {es : List TableEntry} {e : TableEntry} {s : State} (n : Nat)
    (found : findEntry es (s.peek s.pc) s.page = some e) (plain : e.format ≠ .pager) :
    State.fetchLoop es (n + 1) s =
      State.runMicrocode { s.advance 1 with op := s.peek s.pc } e.format e.microcode := by
  simp only [State.fetchLoop, found, plain, false_and, if_false]
  cases State.runMicrocode { s.advance 1 with op := s.peek s.pc } e.format e.microcode <;> rfl

/-- Settles O5: the lookups of a cycle are the decoder's, and a record of a custom table that is no prefix ends its loop. -/
theorem stepRunsDecoded : Obligations.StepRunsDecoded := by
  refine ⟨fun s i n table run h => ?_, fun s es e table run found plain => ?_⟩
  · rw [step_of_running run, State.cycle_default s.beginCommand table, State.lookups_of_decode h, onNext_assoc]
    rfl
  · have loop := State.fetchLoop_of_plain (s := s.beginCommand.beginCycle)
      ((s.cfg.devices.length + 1) * 2 ^ (178 + 8 * s.memSize) + 1) found plain
    have cycle : s.beginCommand.cycle = onNext (State.fetchLoop es s.prefixLimit s.beginCommand.beginCycle) fun u =>
        .next u.endCycle := by
      rw [State.cycle, show s.beginCommand.cfg.opcodeTable = .custom es from table]
      rfl
    rw [step_of_running run, cycle, State.prefixLimit, loop, onNext_assoc]
    rfl

end Sys2Proof.Machine
end

section
/-! PROOF. Microcode (R143 to R174): a program of tokens in the shape of an instruction's rule has the effect of its mnemonic. The
tokens that fetch an operand read the bytes the decoder reads; the tokens after them run the rest of the rule. -/

namespace Sys2Proof

/-! ### The decoder's operand as the instruction's -/

theorem MemOp.mem_operand (x : MemOp) : x.operand.mem = some x := by cases x <;> rfl

theorem Src8.src8_operand (x : Src8) : x.operand.src8 = some x := by rcases x with v | ⟨lo | a | ix⟩ <;> rfl

theorem Src16.src16_operand (x : Src16) : x.operand.src16 = some x := by rcases x with v | ⟨lo | a | ix⟩ <;> rfl

end Sys2Proof

namespace Sys2Proof.Machine

open Sys2Proof.Claims

/-! ### The mnemonic's side -/

/-- A mnemonic whose operand decodes has the meaning of the instruction it makes, after the operand's bytes (R143). -/
theorem State.runMeaning_of_decode {s : State} {f : Format} {m : Mnemonic} {o : Operand} {n : Nat} {i : Instr}
    (read : decodeOperand f s.fetchWindow = some (o, n)) (made : Instr.make m o = some i) :
    s.runMeaning f m = exec i (s.advance n) := by
  rw [State.runMeaning, read]
  simp only [made]

/-- `ftch8` into either scratch register (R161). -/
def State.ftch8In (s : State) : Scratch → State
  | .r1 => s.ftch8r1
  | .r2 => s.ftch8r2

/-- `ftch16` into either scratch register (R162). -/
def State.ftch16In (s : State) : Scratch → State
  | .r1 => s.ftch16r1
  | .r2 => s.ftch16r2

/-- An 8-bit operand into either scratch register (R260). -/
def State.operand8In (s : State) : Scratch → Src8 → Option State
  | .r1 => s.operand8r1
  | .r2 => s.operand8r2

/-- A 16-bit operand into either scratch register (R260). -/
def State.operand16In (s : State) : Scratch → Src16 → Option State
  | .r1 => s.operand16r1
  | .r2 => s.operand16r2

theorem State.operand8In_mem (s : State) (d : Scratch) (m : MemOp) :
    s.operand8In d (.mem m) = (s.resolveEA m).map fun u => u.ftch8In d := by
  cases d <;> rfl

theorem State.operand16In_mem (s : State) (d : Scratch) (m : MemOp) :
    s.operand16In d (.mem m) = (s.resolveEA m).map fun u => u.ftch16In d := by
  cases d <;> rfl

theorem State.orIllegal_map (s : State) (r : Option State) (g k : State → State) :
    s.orIllegal (r.map g) k = s.orIllegal r fun u => k (g u) := by
  cases r <;> rfl

/-! ### The operand tokens -/

section Operand

variable {rest : List Token} {k : State → State}

/-- `indx` reads the operand the decoder reads, and raises where it does not resolve (R156, R119). -/
theorem State.runMicrocode_indx (run : ∀ u : State, u.runMicrocode .idx rest = .next (k u)) (s : State) :
    ∃ ix n, decodeOperand .idx s.fetchWindow = some (.idx ix, n) ∧
      s.runMicrocode .idx (.indx :: rest) = (s.advance n).orIllegal ((s.advance n).indx ix) k := by
  have window := decodeOperand_three .idx (s.peek s.pc) (s.peek (s.pc + 1)) (s.peek (s.pc + 2)) (s.peek (s.pc + 3))
  obtain ⟨⟨ix, n⟩, read⟩ : ∃ p, decodeIndex s.fetchWindow = some p := by
    have whole : (decodeOperand .idx s.fetchWindow).isSome := (congrArg Option.isSome window.1).trans window.2
    exact Option.isSome_iff_exists.mp (by simpa [decodeOperand] using whole)
  refine ⟨ix, n, by simp [decodeOperand, read], ?_⟩
  simp only [State.runMicrocode, State.runToken, State.fetchIndx, read]
  cases (s.advance n).indx ix with
  | none => rfl
  | some u => exact run u

/-- The tokens of a format form the address that `ResolveEA` forms from the decoder's operand (R152, R153, R156, R260). -/
theorem State.runMicrocode_addressTokens {f : Format} (hf : f ∈ [Format.dir, .ext, .idx])
    (run : ∀ u : State, u.runMicrocode f rest = .next (k u)) (s : State) :
    ∃ x n, decodeOperand f s.fetchWindow = some (MemOp.operand x, n) ∧
      s.runMicrocode f (addressTokens rest f) = (s.advance n).orIllegal ((s.advance n).resolveEA x) k := by
  simp only [List.mem_cons, List.not_mem_nil, or_false] at hf
  rcases hf with rfl | rfl | rfl
  · exact ⟨.dir (s.peek s.pc), 1, rfl, run _⟩
  · exact ⟨.ext (s.memRead16 s.pc), 2, rfl, run _⟩
  · obtain ⟨ix, n, read, same⟩ := State.runMicrocode_indx run s
    exact ⟨.idx ix, n, read, same⟩

theorem tokens8_of_memory (d : Scratch) (rest : List Token) {f : Format} (hf : f ∈ [Format.dir, .ext, .idx]) :
    tokens8 d rest f = addressTokens (.ftch8 d :: rest) f := by
  cases f with
  | imm8 => simp at hf
  | _ => rfl

theorem tokens16_of_memory (d : Scratch) (rest : List Token) {f : Format} (hf : f ∈ [Format.dir, .ext, .idx]) :
    tokens16 d rest f = addressTokens (.ftch16 d :: rest) f := by
  cases f with
  | imm16 => simp at hf
  | _ => rfl

/-- The tokens of a format fetch the 8-bit operand the decoder reads (R150, R161). -/
theorem State.runMicrocode_tokens8 (d : Scratch) {f : Format} (hf : f ∈ [Format.imm8, .dir, .ext, .idx])
    (run : ∀ u : State, u.runMicrocode f rest = .next (k u)) (s : State) :
    ∃ x n, decodeOperand f s.fetchWindow = some (Src8.operand x, n) ∧
      s.runMicrocode f (tokens8 d rest f) = (s.advance n).orIllegal ((s.advance n).operand8In d x) k := by
  rcases List.mem_cons.mp hf with rfl | memory
  · refine ⟨.imm (s.peek s.pc), 1, rfl, ?_⟩
    cases d <;> exact run _
  · obtain ⟨x, n, read, same⟩ := State.runMicrocode_addressTokens (rest := .ftch8 d :: rest)
      (k := fun u => k (u.ftch8In d)) memory (fun u => by cases d <;> exact run _) s
    exact ⟨.mem x, n, read, by rw [tokens8_of_memory d rest memory, same, State.operand8In_mem, State.orIllegal_map]⟩

/-- The tokens of a format fetch the 16-bit operand the decoder reads (R151, R162). -/
theorem State.runMicrocode_tokens16 (d : Scratch) {f : Format} (hf : f ∈ [Format.imm16, .dir, .ext, .idx])
    (run : ∀ u : State, u.runMicrocode f rest = .next (k u)) (s : State) :
    ∃ x n, decodeOperand f s.fetchWindow = some (Src16.operand x, n) ∧
      s.runMicrocode f (tokens16 d rest f) = (s.advance n).orIllegal ((s.advance n).operand16In d x) k := by
  rcases List.mem_cons.mp hf with rfl | memory
  · refine ⟨.imm (s.memRead16 s.pc), 2, rfl, ?_⟩
    cases d <;> exact run _
  · obtain ⟨x, n, read, same⟩ := State.runMicrocode_addressTokens (rest := .ftch16 d :: rest)
      (k := fun u => k (u.ftch16In d)) memory (fun u => by cases d <;> exact run _) s
    exact ⟨.mem x, n, read, by rw [tokens16_of_memory d rest memory, same, State.operand16In_mem, State.orIllegal_map]⟩

end Operand

/-! ### Programs of one memory operand, of one 8-bit and of one 16-bit operand -/

section Shapes

variable {m : Mnemonic} {f : Format} {rest : List Token} {k : State → State}

/-- Address tokens and the rest of a rule spell every mnemonic whose meaning on a memory operand is that rule. -/
theorem sameProgram_address {mk : MemOp → Instr} (hf : f ∈ [Format.dir, .ext, .idx])
    (made : ∀ o : Operand, Instr.make m o = o.mem.map mk)
    (meaning : ∀ x s, exec (mk x) s = s.orIllegal (s.resolveEA x) k)
    (run : ∀ u : State, u.runMicrocode f rest = .next (k u)) : SameProgram m f (addressTokens rest f) := by
  intro s
  obtain ⟨x, n, read, same⟩ := State.runMicrocode_addressTokens hf run s
  have instr : Instr.make m x.operand = some (mk x) := by rw [made, x.mem_operand]; rfl
  rw [same, State.runMeaning_of_decode read instr, meaning]

/-- Operand tokens and the rest of a rule spell every mnemonic whose meaning on an 8-bit operand is that rule. -/
theorem sameProgram_operand8 {mk : Src8 → Instr} (d : Scratch) (hf : f ∈ [Format.imm8, .dir, .ext, .idx])
    (made : ∀ o : Operand, Instr.make m o = o.src8.map mk)
    (meaning : ∀ x s, exec (mk x) s = s.orIllegal (s.operand8In d x) k)
    (run : ∀ u : State, u.runMicrocode f rest = .next (k u)) : SameProgram m f (tokens8 d rest f) := by
  intro s
  obtain ⟨x, n, read, same⟩ := State.runMicrocode_tokens8 d hf run s
  have instr : Instr.make m x.operand = some (mk x) := by rw [made, x.src8_operand]; rfl
  rw [same, State.runMeaning_of_decode read instr, meaning]

/-- The same with a 16-bit operand. -/
theorem sameProgram_operand16 {mk : Src16 → Instr} (d : Scratch) (hf : f ∈ [Format.imm16, .dir, .ext, .idx])
    (made : ∀ o : Operand, Instr.make m o = o.src16.map mk)
    (meaning : ∀ x s, exec (mk x) s = s.orIllegal (s.operand16In d x) k)
    (run : ∀ u : State, u.runMicrocode f rest = .next (k u)) : SameProgram m f (tokens16 d rest f) := by
  intro s
  obtain ⟨x, n, read, same⟩ := State.runMicrocode_tokens16 d hf run s
  have instr : Instr.make m x.operand = some (mk x) := by rw [made, x.src16_operand]; rfl
  rw [same, State.runMeaning_of_decode read instr, meaning]

end Shapes

/-! ### The lists of mnemonics: the meaning of each is its rule -/

theorem binaryPrograms_meaning : ∀ p ∈ binaryPrograms, ∃ mk, (∀ o, Instr.make p.1 o = o.src8.map mk) ∧
    ∀ x s, exec (mk x) s = binary8 (fun s => s.alu p.2.2) p.2.1 x s := by
  intro p hp
  fin_cases hp <;> exact ⟨_, fun _ => rfl, fun _ _ => rfl⟩

theorem testPrograms_meaning : ∀ p ∈ testPrograms, ∃ mk, (∀ o, Instr.make p.1 o = o.src8.map mk) ∧
    ∀ x s, exec (mk x) s = test8 (fun s => s.alu p.2.2) p.2.1 x s := by
  intro p hp
  fin_cases hp <;> exact ⟨_, fun _ => rfl, fun _ _ => rfl⟩

theorem wordPrograms_load : ∀ p ∈ wordPrograms, ∃ mk, (∀ o, Instr.make p.1 o = o.src16.map mk) ∧
    ∀ x s, exec (mk x) s = load16 p.2.2 x s := by
  intro p hp
  fin_cases hp <;> exact ⟨_, fun _ => rfl, fun _ _ => rfl⟩

theorem wordPrograms_store : ∀ p ∈ wordPrograms, ∃ mk, (∀ o, Instr.make p.2.1 o = o.mem.map mk) ∧
    ∀ x s, exec (mk x) s = store16 p.2.2 x s := by
  intro p hp
  fin_cases hp <;> exact ⟨_, fun _ => rfl, fun _ _ => rfl⟩

theorem wordCompares_meaning : ∀ p ∈ wordCompares, ∃ mk, (∀ o, Instr.make p.1 o = o.src16.map mk) ∧
    ∀ x s, exec (mk x) s = test16 State.sub16 p.2 x s := by
  intro p hp
  fin_cases hp <;> exact ⟨_, fun _ => rfl, fun _ _ => rfl⟩

theorem memoryPrograms_meaning : ∀ p ∈ memoryPrograms, ∃ mk, (∀ o, Instr.make p.1 o = o.mem.map mk) ∧
    ∀ x s, exec (mk x) s = readModifyWrite (fun s => s.alu p.2) x s := by
  intro p hp
  fin_cases hp <;> exact ⟨_, fun _ => rfl, fun _ _ => rfl⟩

theorem unaryPrograms_meaning : ∀ p ∈ unaryPrograms, ∀ s : State,
    s.runMeaning .inh p.1 = unaryReg (fun s => s.alu p.2.2) p.2.1 s := by
  intro p hp
  fin_cases hp <;> exact fun _ => rfl

/-! ### Branches (R420) -/

/-- The branch that leaves its program at an exit token: by `qt` when the condition holds, by `qf` when it does not (R167). -/
def State.branchExit (s : State) (exit : Token) (c : ChkCond) : State :=
  if exit = .qt then s.branchIfNot c else s.branchIf c

theorem State.runMicrocode_branch {exit : Token} (h : exit = .qt ∨ exit = .qf) (f : Format) (c : ChkCond) (s : State) :
    s.runMicrocode f [.chk c, exit, .stEa .PC, .ntck] = .next (s.branchExit exit c) := by
  rcases h with rfl | rfl
  · show State.runMicrocode (s.chk c) f [.qt, .stEa .PC, .ntck] = .next (s.branchIfNot c)
    cases met : (s.chk c).cond <;> simp only [State.runMicrocode, State.runToken, State.branchIfNot, State.qt, met] <;> rfl
  · show State.runMicrocode (s.chk c) f [.qf, .stEa .PC, .ntck] = .next (s.branchIf c)
    cases met : (s.chk c).cond <;> simp only [State.runMicrocode, State.runToken, State.branchIf, State.qf, met] <;> rfl

theorem branchPrograms_meaning : ∀ p ∈ branchPrograms, (p.2.2.2 = .qt ∨ p.2.2.2 = .qf) ∧ ∀ s : State,
    s.runMeaning .rel8 p.1 = .next ((s.fetch8.2.rel8 s.fetch8.1).branchExit p.2.2.2 p.2.2.1) ∧
    s.runMeaning .rel16 p.2.1 = .next ((s.fetch16.2.rel16 s.fetch16.1).branchExit p.2.2.2 p.2.2.1) := by
  intro p hp
  fin_cases hp <;> exact ⟨by decide, fun _ => ⟨rfl, rfl⟩⟩

/-! ### CMPX (R323, log 10) -/

/-- The codes of `,R+` and `,R++` (R98). -/
theorem autoIncrement_iff_code {c : BitVec 4} {bs : List Byte} {m : IdxMode} {n : Nat} (r : IdxReg) (ind : Bool)
    (h : decodeMode c bs = some (m, n)) :
    autoIncrement (.mem (.idx (.mode r ind m))) = true ↔ c.toNat = 0 ∨ c.toNat = 1 := by
  unfold decodeMode at h
  split at h
  case h_8 hc | h_11 hc =>
    obtain ⟨v, rfl, -⟩ := takeByte_eq_some h
    simp [autoIncrement, hc]
  case h_9 hc | h_12 hc | h_13 hc =>
    obtain ⟨w, rfl, -⟩ := takeWord_eq_some h
    simp [autoIncrement, hc]
  case h_14 =>
    cases h
    exact iff_of_false Bool.false_ne_true (by tauto)
  all_goals
    cases h
    simp [autoIncrement, *]

/-- The mask that CMPX's program is chosen by looks at bit 7 and at the code but for its last bit (R98). -/
theorem postbyte_mask : ∀ pb : Byte, pb &&& 0x8E = 0x80 ↔
    pb.getLsbD 7 = true ∧ ((pb.extractLsb' 0 4).toNat = 0 ∨ (pb.extractLsb' 0 4).toNat = 1) := by
  decide +kernel

/-- A decoded index increments its base exactly when its postbyte says so (R98). -/
theorem autoIncrement_iff_postbyte {pb : Byte} {bs : List Byte} {ix : Index} {n : Nat}
    (h : decodeIndex (pb :: bs) = some (ix, n)) :
    autoIncrement (.mem (.idx ix)) = true ↔ pb &&& 0x8E = 0x80 := by
  rw [postbyte_mask]
  simp only [decodeIndex] at h
  split at h
  next sub =>
    obtain ⟨⟨m, k⟩, mode, same⟩ := Option.map_eq_some_iff.mp h
    cases same
    simp only [autoIncrement_iff_code _ _ mode, sub, true_and]
  next short =>
    cases h
    exact iff_of_false Bool.false_ne_true fun both => short both.1

/-- A decoded 16-bit operand increments its base exactly when it is indexed and its postbyte says so (R98). -/
theorem autoIncrement_iff {f : Format} {pb : Byte} {bs : List Byte} {x : Src16} {n : Nat}
    (h : decodeOperand f (pb :: bs) = some (x.operand, n)) :
    autoIncrement x = true ↔ f = .idx ∧ pb &&& 0x8E = 0x80 := by
  have format := (decodeOperand_eq_some h).1
  rcases x with v | ⟨lo | a | ix⟩
  case mem.idx =>
    obtain rfl : Format.idx = f := format
    have read : decodeIndex (pb :: bs) = some (ix, n) := by
      obtain ⟨⟨ix', n'⟩, hix, same⟩ := Option.map_eq_some_iff.mp h
      cases same
      exact hix
    simp [autoIncrement_iff_postbyte read]
  all_goals
    obtain rfl := format
    simp [autoIncrement, Src16.operand, MemOp.operand, Operand.format]

/-- An operand that increments its base resolves without `r1`, which may be loaded before or after (R323). -/
theorem test16Old_of_autoIncrement {x : Src16} (h : autoIncrement x = true) (op : State → State) (r : Reg) (s : State) :
    (s.ld1 r).orIllegal ((s.ld1 r).operand16r2 x) op = test16Old op r x s := by
  rcases x with v | ⟨lo | a | ⟨b, n⟩ | ⟨b, ind, m⟩⟩
  case mem.idx.mode =>
    cases m with
    | inc1 | inc2 => cases ind <;> cases b <;> rfl
    | _ => cases h
  all_goals cases h

theorem State.ld1_advance (s : State) (r : Reg) (h : r ≠ .PC) (n : Nat) : (s.ld1 r).advance n = (s.advance n).ld1 r := by
  rw [State.advance_eq, State.advance_eq]
  cases r with
  | PC => exact absurd rfl h
  | _ => rfl

/-- CMPX by its two programs: with an auto-increment X is loaded first, and compared as it was (R323). -/
theorem State.runMicrocode_cmpxTokens {f : Format} (hf : f ∈ [Format.imm16, .dir, .ext, .idx]) (s : State) :
    s.runMicrocode f (cmpxTokens f (s.peek s.pc)) = s.runMeaning f .cmpx := by
  have made (x : Src16) : Instr.make .cmpx x.operand = some (.cmpx x) := by
    show x.operand.src16.map Instr.cmpx = _
    rw [x.src16_operand]
    rfl
  unfold cmpxTokens
  split
  next early =>
    obtain ⟨x, n, read, same⟩ := State.runMicrocode_tokens16 (rest := [.alu .sub16]) .r2 hf (fun _ => rfl) (s.ld1 .X)
    have read : decodeOperand f s.fetchWindow = some (x.operand, n) := read
    have meaning : exec (.cmpx x) (s.advance n) = test16Old State.sub16 .X x (s.advance n) :=
      if_pos ((autoIncrement_iff read).mpr early)
    rw [State.runMeaning_of_decode read (made x), meaning,
      ← test16Old_of_autoIncrement ((autoIncrement_iff read).mpr early), ← State.ld1_advance s .X (by decide)]
    exact same
  next late =>
    obtain ⟨x, n, read, same⟩ := State.runMicrocode_tokens16 (rest := [.ld1 .X, .alu .sub16]) .r2 hf (fun _ => rfl) s
    have meaning : exec (.cmpx x) (s.advance n) = test16 State.sub16 .X x (s.advance n) :=
      if_neg fun inc => late ((autoIncrement_iff read).mp inc)
    rw [State.runMeaning_of_decode read (made x), meaning]
    exact same

/-! ### The programs of one format -/

/-- `indx` and the rest of a rule spell every mnemonic whose meaning on an indexed operand is that rule. -/
theorem sameProgram_indx {m : Mnemonic} {rest : List Token} {k : State → State} {mk : Index → Instr}
    (made : ∀ ix, Instr.make m (.idx ix) = some (mk ix))
    (meaning : ∀ ix s, exec (mk ix) s = s.orIllegal (s.indx ix) k)
    (run : ∀ u : State, u.runMicrocode .idx rest = .next (k u)) : SameProgram m .idx (.indx :: rest) := by
  intro s
  obtain ⟨ix, n, read, same⟩ := State.runMicrocode_indx run s
  rw [same, State.runMeaning_of_decode read (made ix), meaning]

/-- `rgop` reads the pair the decoder reads and transfers or exchanges (R165, R290, R291). -/
theorem State.runMicrocode_rgop (exchange : Bool) (f : Format) (s : State) :
    s.runMicrocode f [.rgop exchange] = s.runMeaning .rpair (if exchange then .exg else .tfr) := by
  have meaning : s.runMeaning .rpair (if exchange then .exg else .tfr) =
      (if exchange then execExg else execTfr) (.ofCode ((s.peek s.pc).extractLsb' 4 4))
        (.ofCode ((s.peek s.pc).extractLsb' 0 4)) (s.advance 1) := by
    cases exchange <;> rfl
  rw [meaning]
  simp only [State.runMicrocode, State.runToken, State.fetchRgop, State.fetch8]
  -- An undefined half raises on both sides, whether the pair is transferred or exchanged.
  cases PairReg.ofCode ((s.peek s.pc).extractLsb' 4 4) with
  | undefined c => cases exchange <;> rfl
  | reg p =>
    cases PairReg.ofCode ((s.peek s.pc).extractLsb' 0 4) with
    | undefined c => cases exchange <;> rfl
    | reg q => cases exchange <;> rfl

/-- LEAS, LEAU, TFR and EXG read a postbyte; every other program has no operand or one displacement, and is evaluated. -/
theorem plainPrograms_same : ∀ p ∈ plainPrograms, SameProgram p.1 p.2.1 p.2.2 := by
  intro p hp
  fin_cases hp
  -- LEAS and LEAU, then the branches that are always or never taken, then TFR and EXG.
  iterate 2 exact sameProgram_indx (fun _ => rfl) (fun _ _ => rfl) fun _ => rfl
  iterate 4 exact fun _ => rfl
  iterate 2 exact State.runMicrocode_rgop _ _
  all_goals exact fun _ => rfl

/-- Settles O54: family by family, the meaning of the mnemonic is the rule whose tokens the program lists. -/
theorem microcodeSpellsInstructions : Obligations.MicrocodeSpellsInstructions := by
  refine ⟨fun f hf => ⟨?_, ?_, fun p hp => ?_, fun p hp => ?_⟩,
    fun f hf => ⟨fun p hp => ?_, fun p hp => ?_, State.runMicrocode_cmpxTokens hf, ?_, ?_⟩,
    fun f hf => ⟨?_, ?_, fun p hp => ?_, fun p hp => ?_, ?_, ?_, ?_⟩, fun p hp => ?_, fun p hp => ?_, plainPrograms_same⟩
  · exact sameProgram_operand8 .r1 hf (fun _ => rfl) (fun _ _ => rfl) fun _ => rfl
  · exact sameProgram_operand8 .r1 hf (fun _ => rfl) (fun _ _ => rfl) fun _ => rfl
  · obtain ⟨mk, made, meaning⟩ := binaryPrograms_meaning p hp
    exact sameProgram_operand8 .r2 hf made meaning fun _ => rfl
  · obtain ⟨mk, made, meaning⟩ := testPrograms_meaning p hp
    exact sameProgram_operand8 .r2 hf made meaning fun _ => rfl
  · obtain ⟨mk, made, meaning⟩ := wordPrograms_load p hp
    exact sameProgram_operand16 .r1 hf made meaning fun _ => rfl
  · obtain ⟨mk, made, meaning⟩ := wordCompares_meaning p hp
    exact sameProgram_operand16 .r2 hf made meaning fun _ => rfl
  · exact sameProgram_operand16 .r2 hf (fun _ => rfl) (fun _ _ => rfl) fun _ => rfl
  · exact sameProgram_operand16 .r2 hf (fun _ => rfl) (fun _ _ => rfl) fun _ => rfl
  · exact sameProgram_address hf (fun _ => rfl) (fun _ _ => rfl) fun _ => rfl
  · exact sameProgram_address hf (fun _ => rfl) (fun _ _ => rfl) fun _ => rfl
  · obtain ⟨mk, made, meaning⟩ := wordPrograms_store p hp
    exact sameProgram_address hf made meaning fun _ => rfl
  · obtain ⟨mk, made, meaning⟩ := memoryPrograms_meaning p hp
    exact tokens8_of_memory .r1 _ hf ▸ sameProgram_address hf made meaning fun _ => rfl
  · exact tokens8_of_memory .r1 _ hf ▸ sameProgram_address hf (fun _ => rfl) (fun _ _ => rfl) fun _ => rfl
  · exact sameProgram_address hf (fun _ => rfl) (fun _ _ => rfl) fun _ => rfl
  · exact sameProgram_address hf (fun _ => rfl) (fun _ _ => rfl) fun _ => rfl
  · exact fun s => (unaryPrograms_meaning p hp s).symm
  · obtain ⟨exit, meaning⟩ := branchPrograms_meaning p hp
    exact ⟨fun s => (State.runMicrocode_branch exit .rel8 _ _).trans (meaning s).1.symm,
      fun s => (State.runMicrocode_branch exit .rel16 _ _).trans (meaning s).2.symm⟩

end Sys2Proof.Machine
end

section
/-! PROOF. The rules of the flag unit (R200, R260, R300, R320, R329): what an instruction that only computes leaves unchanged, and
what each shape of program around an 8-bit primitive leaves, from the law of the primitive. -/

namespace Sys2Proof.Machine

open Sys2Proof.Claims

/-! ### Computing leaves the rest of the machine alone -/

/-- Registers other than PC and DP, CC, the scratch registers and the draw counter change at most. -/
def State.Computes (s t : State) : Prop :=
  t = { s with
    a := t.a, b := t.b, x := t.x, y := t.y, u := t.u, s := t.s, cc := t.cc, r1 := t.r1, r2 := t.r2, ea := t.ea
    draws := t.draws }

theorem State.Computes.trans {s t v : State} (h : s.Computes t) (k : t.Computes v) : s.Computes v := by
  unfold State.Computes at h k ⊢
  rw [k, h]

theorem State.Addressed.computes {s t : State} (h : s.Addressed t) : s.Computes t := by
  rw [h]
  rfl

theorem State.Computes.cfg {s t : State} (h : s.Computes t) : t.cfg = s.cfg := by rw [h]

theorem State.Computes.straight {s t : State} (h : s.Computes t) : Straight s t := by
  rw [h]
  exact ⟨rfl, rfl, rfl, rfl, rfl, rfl, rfl, rfl, rfl, rfl⟩

theorem State.Computes.quiet {s t : State} (h : s.Computes t) : Quiet s t := by
  refine ⟨h.straight, ?_⟩
  rw [h]
  exact ⟨⟨fun _ => rfl, rfl, rfl⟩, rfl⟩

theorem State.Computes.straight_poke {s t : State} (h : s.Computes t) (p : Word) (v : Byte) : Straight s (t.poke p v) :=
  h.straight

/-- A `poke` at the end of a computation stores and tells what the `poke` does in the state it began in (R62). -/
theorem State.Computes.stores {s t : State} (h : s.Computes t) (hw : Memory.wf s.mem = true) (p : Word) (v : Byte) :
    Stores [(p, v)] [] [] s (t.poke p v) := by
  have bus : (t.poke p v).bus = (storeAll s [(p, v)]).bus := by
    rw [h]
    rfl
  have mem : (t.poke p v).mem = (storeAll s [(p, v)]).mem := congrArg Bus.mem bus
  have events : (t.poke p v).events = (storeAll s [(p, v)]).events := congrArg Bus.events bus
  have latches : (t.poke p v).latches = (storeAll s [(p, v)]).latches := congrArg Bus.latches bus
  have devices : (t.poke p v).deviceState = (storeAll s [(p, v)]).deviceState := congrArg Bus.deviceState bus
  refine ⟨mem, by simp [events], devices, fun k => by simp [latches], fun hd => ?_⟩
  have free := storeAll_free hd [(p, v)]
  refine ⟨fun addr => ?_, ?_, ?_, fun k => ?_⟩
  · exact (State.peek_congr mem h.cfg addr).trans (peek_storeAll hd hw _ addr)
  · rw [events, free, List.append_nil]
  · rw [devices, free]
  · rw [latches, free]
    simp

/-- A write of a register after a computation moves the parts of that register alone. -/
theorem sameRegs_st1 {u t : State} (h : SameRegs [] u t) (r : Reg) : SameRegs (parts r) u (t.st1 r) := by
  intro q hq hn
  rw [State.st1, State.reg_setReg_other _ _ (by rintro rfl; simp at hq) hn]
  exact h q hq List.not_mem_nil

/-! ### Operands after their addressing (R260) -/

/-- The low byte of a word is the word cut to eight bits. -/
theorem loByte_eq_setWidth (v : Word) : loByte v = v.setWidth 8 := (BitVec.setWidth_eq_extractLsb' (by decide)).symm

/-- Addressing leaves A and B as they were. -/
theorem State.Addressed.reg {s u : State} (h : s.Addressed u) {r : Reg} (hr : r ∈ [Reg.A, .B]) : u.reg r = s.reg r := by
  rw [h]
  fin_cases hr <;> rfl

/-- An accumulator loaded into `r1` after the addressing and the fetch of an operand into `r2`. -/
theorem State.Addressed.ld1 {s u : State} (h : s.Addressed u) {r : Reg} (hr : r ∈ [Reg.A, .B]) (y : Word) :
    State.ld1 { u with r2 := y } r = { u with r1 := s.reg r, r2 := y } := by
  rw [← h.reg hr]
  fin_cases hr <;> rfl

theorem State.Addressed.r2 {s u : State} (h : s.Addressed u) : u.r2 = s.r2 := by rw [h]

theorem State.Addressed.peek {s u : State} (h : s.Addressed u) (addr : Word) : u.peek addr = s.peek addr :=
  State.peek_congr h.mem h.cfg addr

theorem resolveEA_of_wf {m : MemOp} (s : State) (hm : m.wf = true) : ∃ u, s.resolveEA m = some u ∧ s.Addressed u := by
  obtain ⟨u, resolved⟩ := Option.isSome_iff_exists.mp ((s.resolveEA_isSome m).trans hm)
  exact ⟨u, resolved, State.resolveEA_addressed resolved⟩

/-- A well-formed operand has a value after its addressing, which goes into `r2`. -/
theorem operand8_of_wf {src : Src8} (s : State) (hw : src.wf = true) :
    ∃ b u, operand8 s src = some (b, u) ∧ s.operand8r2 src = some { u with r2 := zext16 b } ∧ s.Addressed u := by
  cases src with
  | imm v => exact ⟨v, s, rfl, rfl, rfl⟩
  | mem m =>
    obtain ⟨u, resolved, hu⟩ := resolveEA_of_wf s hw
    exact ⟨u.peek u.ea, u, congrArg (Option.map _) resolved, congrArg (Option.map _) resolved, hu⟩

/-! ### A primitive and its law -/

/-- The result and the descriptor of an 8-bit primitive, from its first and second operand, the old C, and what happens to the
flag that U8 leaves open. -/
abbrev Law := Byte → Byte → Bool → Option Bool → Alu 8

/-- An operation that puts into `r1` and CC what a law says, and draws at most. -/
def Follows (op : State → State) (law : Law) : Prop :=
  ∀ s, ∃ n, op s = { s.put8 (law s.a8 s.b8 (s.flag .C) s.undefinedFlag) with draws := n }

/-- The flags of `t` are those of `s` under a descriptor (R27). -/
def SetsFlags (d : FlagUpdate) (s t : State) : Prop := ∀ f, t.flag f = d.value s.cc f

/-- The flags a descriptor says nothing of are unchanged. -/
theorem SetsFlags.same {d : FlagUpdate} {s t : State} (h : SetsFlags d s t) {except : List Flag}
    (absent : ∀ f, f ∉ except → d.get f = none) : SameFlags except s t := by
  intro f hf
  rw [h f, FlagUpdate.value, absent f hf]
  rfl

section
variable {op : State → State} {law : Law} (ho : Follows op law)
include ho

/-- A primitive follows every law with the same results and descriptors. -/
theorem Follows.congr {law' : Law} (same : ∀ a b c h, law a b c h = law' a b c h) : Follows op law' :=
  fun s => same s.a8 s.b8 (s.flag .C) s.undefinedFlag ▸ ho s

theorem Follows.ea (s : State) : (op s).ea = s.ea := by
  obtain ⟨n, hn⟩ := ho s
  rw [hn]
  rfl

theorem Follows.computes (s : State) : s.Computes (op s) := by
  obtain ⟨n, hn⟩ := ho s
  rw [hn]
  rfl

/-- The registers are those of before the operands were loaded. -/
theorem Follows.sameRegs (u : State) (x y : Word) : SameRegs [] u (op { u with r1 := x, r2 := y }) := by
  obtain ⟨n, hn⟩ := ho { u with r1 := x, r2 := y }
  rw [hn]
  intro r hr _
  fin_cases hr <;> rfl

variable {s u : State} (hu : s.Addressed u) (x y : Word)
include hu

/-- The result in `r1`, with the operands loaded after the addressing. -/
theorem Follows.r1 : (op { u with r1 := x, r2 := y }).r1 =
    zext16 (law (loByte x) (loByte y) (s.flag .C) s.undefinedFlag).result := by
  obtain ⟨n, hn⟩ := ho { u with r1 := x, r2 := y }
  rw [hn, hu]
  rfl

/-- The flags, with the operands loaded after the addressing. -/
theorem Follows.setsFlags :
    SetsFlags (law (loByte x) (loByte y) (s.flag .C) s.undefinedFlag).update s (op { u with r1 := x, r2 := y }) := by
  obtain ⟨n, hn⟩ := ho { u with r1 := x, r2 := y }
  rw [hn, hu]
  exact FlagUpdate.flagOf_apply _ _

theorem Follows.computes_addressed : s.Computes (op { u with r1 := x, r2 := y }) :=
  hu.computes.trans (State.Computes.trans (t := { u with r1 := x, r2 := y }) rfl (ho.computes _))

end

/-! ### The end of a program: a test, a write of an accumulator, a store -/

/-- A test, after the addressing that left `u`: the flags, no more. -/
structure Tests (alu : Alu 8) (s u t : State) : Prop where
  flags : SetsFlags alu.update s t
  regs : SameRegs [] u t
  quiet : Quiet s t

/-- An operation on an accumulator, after the addressing that left `u`: the result in the register, the flags, no more. -/
structure Accumulates (r : Reg) (alu : Alu 8) (s u t : State) : Prop where
  value : t.reg r = alu.result.setWidth 16
  flags : SetsFlags alu.update s t
  regs : SameRegs [r] u t
  quiet : Quiet s t

/-- An operation on the byte at the address that left `u`: one store of the result, the flags, no more. -/
structure Rewrites (alu : Alu 8) (s u t : State) : Prop where
  stores : Stores [(u.ea, alu.result)] [] [] s t
  flags : SetsFlags alu.update s t
  regs : SameRegs [] u t
  straight : Straight s t

section
variable {op : State → State} {law : Law} (ho : Follows op law) {s u : State} (hu : s.Addressed u)
include ho hu

theorem Follows.tests (x y : Word) :
    Tests (law (loByte x) (loByte y) (s.flag .C) s.undefinedFlag) s u (op { u with r1 := x, r2 := y }) :=
  ⟨ho.setsFlags hu x y, ho.sameRegs u x y, (ho.computes_addressed hu x y).quiet⟩

theorem Follows.accumulates {r : Reg} (hr : r ∈ [Reg.A, .B]) (x y : Word) :
    Accumulates r (law (loByte x) (loByte y) (s.flag .C) s.undefinedFlag) s u
      ((op { u with r1 := x, r2 := y }).st1 r) := by
  have flags := ho.setsFlags hu x y
  have computes := ho.computes_addressed hu x y
  have result := ho.r1 hu x y
  have regs := sameRegs_st1 (ho.sameRegs u x y) r
  generalize op { u with r1 := x, r2 := y } = t at *
  have written : narrow r t.r1 = t.r1 ∧ parts r = [r] ∧ (t.st1 r).cc = t.cc ∧ t.Computes (t.st1 r) := by
    rw [result]
    fin_cases hr <;> exact ⟨(zext16_loByte _).symm.trans (congrArg zext16 (loByte_zext16 _)), rfl, rfl, rfl⟩
  obtain ⟨fits, part, cc, only⟩ := written
  refine ⟨?_, fun f => ?_, part ▸ regs, (computes.trans only).quiet⟩
  · rw [State.st1, State.reg_setReg_same, fits, result]
    rfl
  · rw [State.flag, cc]
    exact flags f

theorem Follows.rewrites (hw : Memory.wf s.mem = true) (x y : Word) :
    Rewrites (law (loByte x) (loByte y) (s.flag .C) s.undefinedFlag) s u (op { u with r1 := x, r2 := y }).stor8 := by
  have computes := ho.computes_addressed hu x y
  have stored : (op { u with r1 := x, r2 := y }).stor8 =
      (op { u with r1 := x, r2 := y }).poke u.ea (law (loByte x) (loByte y) (s.flag .C) s.undefinedFlag).result := by
    rw [State.stor8, ho.r1 hu, loByte_zext16, ho.ea]
  rw [stored]
  refine ⟨computes.stores hw _ _, ho.setsFlags hu x y, fun q hq hn => ?_, computes.straight_poke _ _⟩
  rw [← ho.sameRegs u x y q hq hn]
  fin_cases hq <;> rfl

end

/-! ### The shared operations of the arithmetic and logic instructions -/

section
variable {op : State → State} {law : Law} (ho : Follows op law) (s : State)
include ho

/-- An accumulator and an operand (R300). -/
theorem Follows.binary8 {r : Reg} (hr : r ∈ [Reg.A, .B]) {src : Src8} (hw : src.wf = true) :
    ∃ b u t, operand8 s src = some (b, u) ∧ Machine.binary8 op r src s = .next t ∧
      Accumulates r (law ((s.reg r).setWidth 8) b (s.flag .C) s.undefinedFlag) s u t := by
  obtain ⟨b, u, value, resolved, hu⟩ := operand8_of_wf s hw
  have done := ho.accumulates hu hr (s.reg r) (zext16 b)
  rw [loByte_zext16, loByte_eq_setWidth, ← hu.ld1 hr] at done
  exact ⟨b, u, _, value, State.orIllegal_some resolved, done⟩

/-- An accumulator and an operand, with nothing stored (R320, R376). -/
theorem Follows.test8 {r : Reg} (hr : r ∈ [Reg.A, .B]) {src : Src8} (hw : src.wf = true) :
    ∃ b u t, operand8 s src = some (b, u) ∧ Machine.test8 op r src s = .next t ∧ t.reg r = s.reg r ∧
      Tests (law ((s.reg r).setWidth 8) b (s.flag .C) s.undefinedFlag) s u t := by
  obtain ⟨b, u, value, resolved, hu⟩ := operand8_of_wf s hw
  have done := ho.tests hu (s.reg r) (zext16 b)
  rw [loByte_zext16, loByte_eq_setWidth, ← hu.ld1 hr] at done
  refine ⟨b, u, _, value, State.orIllegal_some resolved, ?_, done⟩
  have stored : r ∈ [Reg.A, .B, .X, .Y, .U, .S, .DP] := by fin_cases hr <;> decide
  rw [done.regs r stored List.not_mem_nil, hu.reg hr]

/-- An accumulator alone (R329). -/
theorem Follows.unaryReg {r : Reg} (hr : r ∈ [Reg.A, .B]) :
    ∃ t, Machine.unaryReg op r s = .next t ∧
      Accumulates r (law ((s.reg r).setWidth 8) (loByte s.r2) (s.flag .C) s.undefinedFlag) s s t := by
  rw [← loByte_eq_setWidth]
  exact ⟨_, rfl, ho.accumulates (u := s) rfl hr (s.reg r) s.r2⟩

/-- A memory byte (R329). -/
theorem Follows.readModifyWrite {m : MemOp} (hm : m.wf = true) (hw : Memory.wf s.mem = true) :
    ∃ u t, s.resolveEA m = some u ∧ Machine.readModifyWrite op m s = .next t ∧
      Rewrites (law (s.peek u.ea) (loByte s.r2) (s.flag .C) s.undefinedFlag) s u t := by
  obtain ⟨u, resolved, hu⟩ := resolveEA_of_wf s hm
  have done := ho.rewrites hu hw (zext16 (u.peek u.ea)) u.r2
  rw [loByte_zext16] at done
  exact ⟨u, _, resolved, State.orIllegal_some resolved, hu.peek u.ea ▸ hu.r2 ▸ done⟩

end

end Sys2Proof.Machine
end

section
/-! PROOF. The laws of the ALU primitives (R202 to R228) in terms of integers. -/

namespace Sys2Proof.Machine

open Sys2Proof.Claims

theorem isZero_eq {w : Nat} (r : BitVec w) : isZero r = decide (r.toNat = 0) := by
  rw [isZero, Bool.eq_iff_iff, beq_iff_eq, decide_eq_true_iff, ← BitVec.toNat_inj]
  simp

/-- A byte is its number, less 256 when its sign bit is set. -/
theorem byte_sign (a : Byte) : a.msb = false ∧ a.toInt = a.toNat ∧ a.toNat < 128 ∨
    a.msb = true ∧ a.toInt = a.toNat - 256 ∧ 128 ≤ a.toNat := by
  have value : a.toInt = if a.msb = true then (a.toNat : Int) - 256 else a.toNat := BitVec.toInt_eq_msb_cond a
  have sign : a.msb = decide (128 ≤ a.toNat) := BitVec.msb_eq_decide a
  by_cases h : 128 ≤ a.toNat <;> simp_all

/-! ### Addition and subtraction -/

/-- The signed sum leaves -128..127 where both operands have the sign that the result has not (R202). -/
theorem addOverflow_adc8 (a b : Byte) (c : Bool) : addOverflow a b (BitVec.ofNat 8 (a.toNat + b.toNat + c.toNat)) =
    decide (a.toInt + b.toInt + c.toNat < -128 ∨ 127 < a.toInt + b.toInt + c.toNat) := by
  have carry : c.toNat ≤ 1 := Bool.toNat_le c
  have sum : (BitVec.ofNat 8 (a.toNat + b.toNat + c.toNat)).toNat = (a.toNat + b.toNat + c.toNat) % 256 :=
    BitVec.toNat_ofNat _ _
  generalize BitVec.ofNat 8 (a.toNat + b.toNat + c.toNat) = r at sum
  rw [addOverflow, BitVec.msb_and, BitVec.msb_xor, BitVec.msb_xor, Bool.eq_iff_iff, decide_eq_true_iff]
  -- By the signs of the operands and of the result.
  rcases byte_sign a with ⟨sa, va, ha⟩ | ⟨sa, va, ha⟩ <;>
    rcases byte_sign b with ⟨sb, vb, hb⟩ | ⟨sb, vb, hb⟩ <;>
    rcases byte_sign r with ⟨sr, -, hr⟩ | ⟨sr, -, hr⟩
  all_goals
    rw [sa, sb, sr, va, vb]
    simp
    omega

/-- The difference of the numbers, narrowed, is the difference of the words. -/
theorem ofInt_sub_toNat {w : Nat} (a b : BitVec w) : BitVec.ofInt w (a.toNat - b.toNat) = a - b := by
  have ha : BitVec.ofInt w (a.toNat : Int) = a := by simp
  have hb : BitVec.ofInt w (b.toNat : Int) = b := by simp
  rw [Int.sub_eq_add_neg, BitVec.ofInt_add, BitVec.ofInt_neg, ha, hb, BitVec.sub_eq_add_neg]

/-- A subtraction with no borrow in is the difference of the words; C is the unsigned borrow (R208, R210). -/
theorem aluSub_false {w : Nat} (a b : BitVec w) (h : Option Bool) : aluSub a b false h =
    ⟨a - b, {
      h := h, n := (a - b).msb, z := isZero (a - b), v := subOverflow a b (a - b), c := decide (a.toNat < b.toNat) }⟩ := by
  have borrow : decide ((a.toNat : Int) - b.toNat < 0) = decide (a.toNat < b.toNat) := by
    rw [decide_eq_decide]
    omega
  rw [← borrow, ← ofInt_sub_toNat, ← Int.sub_zero (a.toNat - b.toNat : Int)]
  rfl

/-- The Overflow law of a subtraction is that of the library: the signed difference is out of range (R202). -/
theorem subOverflow_sub {w : Nat} (a b : BitVec w) : subOverflow a b (a - b) = a.ssubOverflow b := by
  rw [subOverflow, BitVec.ssubOverflow_eq, BitVec.msb_and, BitVec.msb_xor, BitVec.msb_xor]
  cases a.msb <;> cases b.msb <;> cases (a - b).msb <;> rfl

/-- V and N differ after a subtraction exactly where the first operand is the smaller, signed: N is the sign of the difference
where it fits, the opposite of it where it does not. -/
theorem subOverflow_xor_msb {w : Nat} (a b : BitVec w) :
    (subOverflow a b (a - b) ^^ (a - b).msb) = decide (a.toInt < b.toInt) := by
  rw [subOverflow_sub]
  cases overflow : a.ssubOverflow b
  · have fits : (a - b).toInt = a.toInt - b.toInt := BitVec.toInt_sub_of_not_ssubOverflow (by simp [overflow])
    rw [Bool.false_xor, BitVec.msb_eq_toInt, fits]
    simp
  · rw [BitVec.ssubOverflow_eq, BitVec.msb_eq_toInt (x := a), BitVec.msb_eq_toInt (x := b)] at overflow
    cases h : (a - b).msb <;> simp [h] at overflow ⊢ <;> omega

/-- The conditions of the branches after a comparison (R166, R240). -/
theorem SetsFlags.compare {w : Nat} {a b : BitVec w} {h : Option Bool} {s t : State}
    (flags : SetsFlags (aluSub a b false h).update s t) :
    ChkCond.LT.holds t = decide (a.toInt < b.toInt) ∧ ChkCond.LE.holds t = decide (a.toInt ≤ b.toInt) ∧
      ChkCond.LS.holds t = decide (a.toNat ≤ b.toNat) ∧ ChkCond.C.holds t = decide (a.toNat < b.toNat) ∧
      ChkCond.Z.holds t = decide (a = b) := by
  rw [aluSub_false] at flags
  have zero : t.flag .Z = decide (a = b) := by
    have equal : isZero (a - b) = true ↔ a = b := beq_iff_eq.trans sub_eq_zero
    rw [Bool.eq_iff_iff, decide_eq_true_iff, ← equal, flags .Z]
    rfl
  have carry : t.flag .C = decide (a.toNat < b.toNat) := flags .C
  have less : (t.flag .V ^^ t.flag .N) = decide (a.toInt < b.toInt) := by
    rw [flags .V, flags .N]
    exact subOverflow_xor_msb a b
  refine ⟨less, ?_, ?_, carry, zero⟩
  · rw [ChkCond.holds, zero, less, ← Bool.decide_or, decide_eq_decide, ← BitVec.toInt_inj]
    omega
  · rw [ChkCond.holds, zero, carry, ← Bool.decide_or, decide_eq_decide, ← BitVec.toNat_inj]
    omega

theorem follows_add8 : Follows State.add8 fun a b _ _ => aluAdc8 a b false := fun _ => ⟨_, rfl⟩

theorem follows_adc8 : Follows State.adc8 fun a b c _ => aluAdc8 a b c := fun _ => ⟨_, rfl⟩

theorem follows_sub8 : Follows State.sub8 fun a b _ h => aluSub8 a b h := fun _ => ⟨_, State.drawn_eq _⟩

/-! ### Logic, test, clear -/

theorem follows_tst8 : Follows State.tst8 fun a _ _ _ => ⟨a, logicFlags a⟩ := fun _ => ⟨_, rfl⟩

theorem follows_clr8 : Follows State.clr8 fun _ _ _ _ => aluClr8 := fun _ => ⟨_, rfl⟩

/-- The flag step of a logic operation or a test (R211 to R213, R226). -/
theorem SetsFlags.logic {r : Byte} {s t : State} (h : SetsFlags (logicFlags r) s t) :
    FlagsNZ r t ∧ t.flag .V = false ∧ SameFlags [.N, .Z, .V] s t := by
  refine ⟨⟨h .N, (h .Z).trans (isZero_eq r)⟩, h .V, h.same fun f hf => ?_⟩
  cases f with
  | N | Z | V => simp at hf
  | _ => rfl

/-- The flags of a cleared operand (R228). -/
theorem SetsFlags.clear {s t : State} (h : SetsFlags aluClr8.update s t) :
    t.flag .N = false ∧ t.flag .Z = true ∧ t.flag .V = false ∧ t.flag .C = false ∧ SameFlags [.N, .Z, .V, .C] s t := by
  refine ⟨h .N, h .Z, h .V, h .C, h.same fun f hf => ?_⟩
  cases f with
  | N | Z | V | C => simp at hf
  | _ => rfl

/-! ### Single-operand operations (R214 to R222) -/

/-- A single-operand operation of the claims, as the result and the descriptor of a primitive. -/
def unaryAlu (un : Unary) (a : Byte) (c : Bool) (h : Option Bool) : Alu 8 :=
  ⟨un.result a c, {
    h := if un.openH then h else none
    n := (un.result a c).msb
    z := isZero (un.result a c)
    v := un.overflow a
    c := un.carry a }⟩

theorem aluNeg8_eq (a : Byte) (c : Bool) (h : Option Bool) : aluNeg8 a h = unaryAlu unaryNeg a c h := by
  have result : 0 - a = BitVec.ofInt 8 (-a.toInt) := by
    rw [BitVec.ofInt_neg, BitVec.ofInt_toInt]
    exact BitVec.zero_sub a
  have carry : decide ((0 : Byte).toNat < a.toNat) = decide (a.toNat ≠ 0) := decide_eq_decide.mpr Nat.pos_iff_ne_zero
  have overflow : subOverflow 0 a (0 - a) = decide (a.toNat = 0x80) := by
    have range := a.isLt
    rw [subOverflow_sub, BitVec.ssubOverflow, ← Bool.decide_or, decide_eq_decide]
    rcases byte_sign a with ⟨-, value, half⟩ | ⟨-, value, half⟩
    all_goals
      rw [value]
      simp
      omega
  rw [aluNeg8, aluSub_false, overflow, result, carry]
  rfl

theorem aluInc8_eq (a : Byte) (c : Bool) (h : Option Bool) : aluInc8 a = unaryAlu unaryInc a c h := by
  have result : a + 1 = BitVec.ofNat 8 (a.toNat + 1) := by
    rw [BitVec.ofNat_add, BitVec.ofNat_toNat, BitVec.setWidth_eq]
    rfl
  have overflow : decide (a = 0x7F) = decide (a.toNat = 0x7F) := decide_eq_decide.mpr BitVec.toNat_inj.symm
  rw [aluInc8, result, overflow]
  rfl

theorem aluDec8_eq (a : Byte) (c : Bool) (h : Option Bool) : aluDec8 a = unaryAlu unaryDec a c h := by
  have result : a - 1 = BitVec.ofInt 8 (a.toInt - 1) := by
    rw [Int.sub_eq_add_neg, BitVec.ofInt_add, BitVec.ofInt_toInt, BitVec.sub_eq_add_neg]
    rfl
  have overflow : decide (a = 0x80) = decide (a.toNat = 0x80) := decide_eq_decide.mpr BitVec.toNat_inj.symm
  rw [aluDec8, result, overflow]
  rfl

theorem aluCom8_eq (a : Byte) (c : Bool) (h : Option Bool) : aluCom8 a = unaryAlu unaryCom a c h := by
  have result : a ^^^ 0xFF = BitVec.ofNat 8 (255 - a.toNat) := by
    apply BitVec.eq_of_toNat_eq
    rw [show (0xFF : Byte) = BitVec.allOnes 8 from rfl, BitVec.xor_allOnes, BitVec.toNat_not, BitVec.toNat_ofNat]
    omega
  rw [aluCom8, result]
  rfl

theorem aluLsr8_eq (a : Byte) (c : Bool) (h : Option Bool) : aluLsr8 a h = unaryAlu unaryLsr a c h := by
  have result : a >>> 1 = BitVec.ofNat 8 (a.toNat / 2) := by
    apply BitVec.eq_of_toNat_eq
    simp [Nat.shiftRight_eq_div_pow]
    omega
  have sign : (a >>> 1).msb = false := by simp
  rw [aluLsr8, unaryAlu, show unaryLsr.result a c = a >>> 1 from result.symm, sign]
  rfl

/-- Two pieces of a byte side by side, as a number (R219, R222). -/
theorem toNat_append_eq {m n : Nat} (hi : BitVec m) (lo : BitVec n) : (hi ++ lo).toNat = hi.toNat * 2 ^ n + lo.toNat := by
  rw [BitVec.toNat_append, ← Nat.shiftLeft_add_eq_or_of_lt lo.isLt, Nat.shiftLeft_eq]

theorem aluRor8_eq (a : Byte) (c : Bool) (h : Option Bool) : aluRor8 a c = unaryAlu unaryRor a c h := by
  have carry : c.toNat ≤ 1 := c.toNat_le
  have result : BitVec.ofBool c ++ a.extractLsb' 1 7 = BitVec.ofNat 8 (128 * c.toNat + a.toNat / 2) := by
    apply BitVec.eq_of_toNat_eq
    rw [toNat_append_eq]
    simp [Nat.shiftRight_eq_div_pow]
    omega
  rw [aluRor8, result]
  rfl

theorem aluAsr8_eq (a : Byte) (c : Bool) (h : Option Bool) : aluAsr8 a h = unaryAlu unaryAsr a c h := by
  have result : a.sshiftRight 1 = BitVec.ofInt 8 (a.toInt / 2) := by
    rw [← BitVec.ofInt_toInt (x := a.sshiftRight 1), BitVec.toInt_sshiftRight, Int.shiftRight_eq_div_pow]
    rfl
  rw [aluAsr8, result]
  rfl

theorem aluLsl8_eq (a : Byte) (c : Bool) (h : Option Bool) : aluLsl8 a h = unaryAlu unaryLsl a c h := by
  have result : a <<< 1 = BitVec.ofNat 8 (2 * a.toNat) := by
    apply BitVec.eq_of_toNat_eq
    simp [Nat.shiftLeft_eq]
    omega
  rw [aluLsl8, result]
  rfl

theorem aluRol8_eq (a : Byte) (c : Bool) (h : Option Bool) : aluRol8 a c = unaryAlu unaryRol a c h := by
  have carry : c.toNat ≤ 1 := c.toNat_le
  have result : a.extractLsb' 0 7 ++ BitVec.ofBool c = BitVec.ofNat 8 (2 * a.toNat + c.toNat) := by
    apply BitVec.eq_of_toNat_eq
    rw [toNat_append_eq]
    simp
    omega
  rw [aluRol8, result]
  rfl

/-- A primitive that follows a single-operand operation of the claims. -/
abbrev FollowsUnary (op : State → State) (un : Unary) : Prop := Follows op fun a _ c h => unaryAlu un a c h

theorem follows_neg8 : FollowsUnary State.neg8 unaryNeg :=
  .congr (law := fun a _ _ h => aluNeg8 a h) (fun _ => ⟨_, State.drawn_eq _⟩) fun a _ => aluNeg8_eq a

theorem follows_inc8 : FollowsUnary State.inc8 unaryInc :=
  .congr (law := fun a _ _ _ => aluInc8 a) (fun _ => ⟨_, rfl⟩) fun a _ => aluInc8_eq a

theorem follows_dec8 : FollowsUnary State.dec8 unaryDec :=
  .congr (law := fun a _ _ _ => aluDec8 a) (fun _ => ⟨_, rfl⟩) fun a _ => aluDec8_eq a

theorem follows_com8 : FollowsUnary State.com8 unaryCom :=
  .congr (law := fun a _ _ _ => aluCom8 a) (fun _ => ⟨_, rfl⟩) fun a _ => aluCom8_eq a

theorem follows_lsr8 : FollowsUnary State.lsr8 unaryLsr :=
  .congr (law := fun a _ _ h => aluLsr8 a h) (fun _ => ⟨_, State.drawn_eq _⟩) fun a _ => aluLsr8_eq a

theorem follows_ror8 : FollowsUnary State.ror8 unaryRor :=
  .congr (law := fun a _ c _ => aluRor8 a c) (fun _ => ⟨_, rfl⟩) fun a _ => aluRor8_eq a

theorem follows_asr8 : FollowsUnary State.asr8 unaryAsr :=
  .congr (law := fun a _ _ h => aluAsr8 a h) (fun _ => ⟨_, State.drawn_eq _⟩) fun a _ => aluAsr8_eq a

theorem follows_lsl8 : FollowsUnary State.lsl8 unaryLsl :=
  .congr (law := fun a _ _ h => aluLsl8 a h) (fun _ => ⟨_, State.drawn_eq _⟩) fun a _ => aluLsl8_eq a

theorem follows_rol8 : FollowsUnary State.rol8 unaryRol :=
  .congr (law := fun a _ c _ => aluRol8 a c) (fun _ => ⟨_, rfl⟩) fun a _ => aluRol8_eq a

/-- Unless the parameter frees them, the flags of U8 stay out of a descriptor (R245, log 7). -/
theorem State.undefinedFlag_unchanged {s : State} (h : s.cfg.undefinedFlags = .unchanged) : s.undefinedFlag = none := by
  rw [State.undefinedFlag, h]

/-- The flags after a single-operand operation are those of the claims. -/
theorem SetsFlags.unary {un : Unary} {a : Byte} {s t : State}
    (h : SetsFlags (unaryAlu un a (s.flag .C) s.undefinedFlag).update s t) : UnaryFlags un a s t := by
  have half : t.flag .H = (if un.openH then s.undefinedFlag else none).getD (s.flag .H) := h .H
  refine ⟨⟨h .N, (h .Z).trans (isZero_eq _)⟩, h .C, h .V, ?_, h.same fun f hf => ?_⟩
  · split
    next opened =>
      intro kept
      rw [half, if_pos opened, s.undefinedFlag_unchanged kept]
      rfl
    next closed =>
      rw [half, if_neg closed]
      rfl
  · cases f with
    | I | F | E => rfl
    | _ => simp at hf

/-! ### Decimal adjust (R225) -/

/-- The sum DAA forms from A as a number, H and C. -/
def daaSum (a : Nat) (h c : Bool) : Nat :=
  a + (if h = true ∨ 9 < a % 16 then 0x06 else 0) + (if c = true ∨ 9 < a / 16 ∨ (8 < a / 16 ∧ 9 < a % 16) then 0x60 else 0)

theorem aluDaa_eq (a : Byte) (h c : Bool) (v : Option Bool) : aluDaa a h c v =
    ⟨BitVec.ofNat 8 (daaSum a.toNat h c), {
      v := v, n := (BitVec.ofNat 8 (daaSum a.toNat h c)).msb, z := isZero (BitVec.ofNat 8 (daaSum a.toNat h c))
      c := c || decide (255 < daaSum a.toNat h c) }⟩ := by
  have sum : a.toNat + daaCorrection a h c = daaSum a.toNat h c := (Nat.add_assoc _ _ _).symm
  rw [← sum]
  rfl

/-- Two decimal digits as a number. -/
theorem toNat_bcd (n : Nat) : (bcd n).toNat = 16 * (n / 10 % 10) + n % 10 := by
  rw [bcd, BitVec.toNat_ofNat]
  omega

/-- DAA of a binary sum of digits: `tens` is a sum of two, `ones` a sum of two and a carry. The digits are those of the decimal
sum modulo 100, and the carry says that it reached 100. -/
theorem daaSum_decimal : ∀ tens < 19, ∀ ones < 20,
    let sum := daaSum ((16 * tens + ones) % 256) (decide (15 < ones)) (decide (255 < 16 * tens + ones))
    sum % 256 = 16 * ((10 * tens + ones) % 100 / 10 % 10) + (10 * tens + ones) % 100 % 10 ∧
      (decide (255 < 16 * tens + ones) || decide (255 < sum)) = decide (100 ≤ 10 * tens + ones) := by
  decide +kernel

end Sys2Proof.Machine
end

section
/-! PROOF. The instructions of the flag unit: add, compare, logic, single operands, TST and CLR, MUL, SEX, ABX and DAA. Each proof
names the primitive of every instruction and cites its law. -/

namespace Sys2Proof.Machine

open Sys2Proof.Claims

/-- Settles O33: ADD is ADC with no carry in, and V is the signed range of the sum. -/
theorem addByte : Obligations.AddByte := by
  intro p hp src s hw
  obtain ⟨accumulator, op, follows, meaning⟩ : p.2.1 ∈ [Reg.A, .B] ∧
      ∃ op, Follows op (fun a b c _ => aluAdc8 a b (p.2.2 && c)) ∧ exec (p.1 src) s = binary8 op p.2.1 src s := by
    fin_cases hp
    iterate 2 exact ⟨by decide, _, follows_add8, rfl⟩
    iterate 2 exact ⟨by decide, _, follows_adc8, rfl⟩
  obtain ⟨b, u, t, value, run, result, flags, regs, quiet⟩ := follows.binary8 s accumulator hw
  refine ⟨b, u, t, value, meaning.trans run, result, ⟨flags .N, (flags .Z).trans (isZero_eq _)⟩, flags .C,
    (flags .V).trans (addOverflow_adc8 _ _ _), flags .H, flags.same fun f hf => ?_, regs, quiet⟩
  cases f with
  | I | F | E => rfl
  | _ => simp at hf

/-- Settles O37: both compares set the flags of a subtraction with no borrow in. -/
theorem comparisonConditions : Obligations.ComparisonConditions := by
  refine ⟨fun b s => ?_, fun b s => ?_⟩
  · obtain ⟨_, _, t, value, run, -, tested⟩ := follows_sub8.test8 s (r := .A) (by decide) (src := .imm b) rfl
    cases value
    rw [← loByte_eq_setWidth, State.reg_A, loByte_zext16] at tested
    exact ⟨t, run, tested.flags.compare⟩
  · have flags : SetsFlags (aluSub16 s.x b s.undefinedFlag).update s (State.sub16 { s with r1 := s.x, r2 := b }) := by
      rw [State.sub16, State.drawn_eq]
      exact FlagUpdate.flagOf_apply _ _
    exact ⟨_, rfl, flags.compare⟩

/-- Settles O38: the primitive of each instruction follows its operation. -/
theorem unaryOnAccumulator : Obligations.UnaryOnAccumulator := by
  intro p hp s
  obtain ⟨accumulator, op, follows, meaning⟩ : p.2.1 ∈ [Reg.A, .B] ∧ ∃ op, FollowsUnary op p.2.2 ∧
      exec p.1 s = unaryReg op p.2.1 s := by
    fin_cases hp
    all_goals refine ⟨by decide, _, ?_, rfl⟩
    exacts [follows_neg8, follows_neg8, follows_inc8, follows_inc8, follows_dec8, follows_dec8, follows_com8, follows_com8,
      follows_lsr8, follows_lsr8, follows_ror8, follows_ror8, follows_asr8, follows_asr8, follows_lsl8, follows_lsl8,
      follows_rol8, follows_rol8]
  obtain ⟨t, run, result, flags, regs, quiet⟩ := follows.unaryReg s accumulator
  exact ⟨t, meaning.trans run, result, flags.unary, regs, quiet⟩

/-- Settles O39: the same nine primitives, between one read and one write of the address. -/
theorem unaryOnMemory : Obligations.UnaryOnMemory := by
  intro p hp m s hm hw
  obtain ⟨op, follows, meaning⟩ : ∃ op, FollowsUnary op p.2 ∧ exec (p.1 m) s = readModifyWrite op m s := by
    fin_cases hp
    all_goals refine ⟨_, ?_, rfl⟩
    exacts [follows_neg8, follows_inc8, follows_dec8, follows_com8, follows_lsr8, follows_ror8, follows_asr8, follows_lsl8,
      follows_rol8]
  obtain ⟨u, t, resolved, run, stores, flags, regs, straight⟩ := follows.readModifyWrite s hm hw
  exact ⟨u, t, resolved, meaning.trans run, stores, flags.unary, regs, straight⟩

/-- Settles O40: TST is the flag step of a logic operation, CLR writes a result that no operand enters. -/
theorem testAndClear : Obligations.TestAndClear := by
  refine ⟨fun p hp s => ?_, fun m s hm => ?_, fun p hp s => ?_, fun m s hm hw => ?_⟩
  · have meaning : exec p.1 s = .next (s.ld1 p.2).tst8 := by fin_cases hp <;> rfl
    obtain ⟨flags, regs, quiet⟩ := follows_tst8.tests (u := s) rfl (s.reg p.2) s.r2
    rw [loByte_eq_setWidth] at flags
    obtain ⟨nz, v, same⟩ := flags.logic
    exact ⟨_, meaning, nz, v, same, regs, quiet⟩
  · obtain ⟨u, resolved, hu⟩ := resolveEA_of_wf s hm
    obtain ⟨flags, regs, quiet⟩ := follows_tst8.tests hu (zext16 (u.peek u.ea)) u.r2
    rw [loByte_zext16] at flags
    obtain ⟨nz, v, same⟩ := flags.logic
    exact ⟨u, _, resolved, State.orIllegal_some resolved, hu.peek u.ea ▸ nz, v, same, regs, quiet⟩
  · obtain ⟨accumulator, meaning⟩ : p.2 ∈ [Reg.A, .B] ∧ exec p.1 s = .next (s.clr8.st1 p.2) := by
      fin_cases hp <;> exact ⟨by decide, rfl⟩
    obtain ⟨result, flags, regs, quiet⟩ := follows_clr8.accumulates (u := s) rfl accumulator s.r1 s.r2
    obtain ⟨n, z, v, c, same⟩ := flags.clear
    exact ⟨_, meaning, result, n, z, v, c, same, regs, quiet⟩
  · obtain ⟨u, resolved, hu⟩ := resolveEA_of_wf s hm
    obtain ⟨stores, flags, regs, straight⟩ := follows_clr8.rewrites hu hw u.r1 u.r2
    obtain ⟨n, z, v, c, same⟩ := flags.clear
    exact ⟨u, _, resolved, State.orIllegal_some resolved, stores, n, z, v, c, same, regs, straight⟩

/-- Settles O43: each primitive is its operation bit by bit. -/
theorem logicByte : Obligations.LogicByte := by
  intro p hp src s hw
  obtain ⟨accumulator, f, op, follows, bits, meaning⟩ : p.2.1 ∈ [Reg.A, .B] ∧ ∃ (f : Byte → Byte → Byte) (op : State → State),
      Follows op (fun a b _ _ => ⟨f a b, logicFlags (f a b)⟩) ∧
      (∀ a b k, (f a b).getLsbD k = p.2.2.1 (a.getLsbD k) (b.getLsbD k)) ∧
      exec (p.1 src) s = if p.2.2.2 then binary8 op p.2.1 src s else test8 op p.2.1 src s := by
    fin_cases hp
    iterate 2 exact ⟨by decide, _, State.and8, fun _ => ⟨_, rfl⟩, fun _ _ _ => BitVec.getLsbD_and, rfl⟩
    iterate 2 exact ⟨by decide, _, State.or8, fun _ => ⟨_, rfl⟩, fun _ _ _ => BitVec.getLsbD_or, rfl⟩
    iterate 2 exact ⟨by decide, _, State.eor8, fun _ => ⟨_, rfl⟩, fun _ _ _ => BitVec.getLsbD_xor, rfl⟩
    iterate 2 exact ⟨by decide, _, State.and8, fun _ => ⟨_, rfl⟩, fun _ _ _ => BitVec.getLsbD_and, rfl⟩
  have low (b : Byte) (k : Nat) (hk : k < 8) : (f ((s.reg p.2.1).setWidth 8) b).getLsbD k =
      p.2.2.1 ((s.reg p.2.1).getLsbD k) (b.getLsbD k) := by
    rw [bits, BitVec.getLsbD_setWidth, decide_eq_true hk, Bool.true_and]
  rw [meaning]
  cases p.2.2.2 with
  | false =>
    obtain ⟨b, u, t, value, run, kept, flags, regs, quiet⟩ := follows.test8 s accumulator hw
    obtain ⟨nz, v, same⟩ := flags.logic
    exact ⟨b, u, t, _, value, run, low b, kept, nz, v, same, fun q hq _ => regs q hq List.not_mem_nil, quiet⟩
  | true =>
    obtain ⟨b, u, t, value, run, result, flags, regs, quiet⟩ := follows.binary8 s accumulator hw
    obtain ⟨nz, v, same⟩ := flags.logic
    exact ⟨b, u, t, _, value, run, low b, result, nz, v, same, regs, quiet⟩

/-! ### MUL, SEX, ABX -/

theorem State.put16_sameRegs (s : State) (alu : Alu 16) : SameRegs [] s (s.put16 alu) := by
  intro r hr _
  fin_cases hr <;> rfl

theorem State.put16_setsFlags (s : State) (alu : Alu 16) : SetsFlags alu.update s (s.put16 alu) :=
  FlagUpdate.flagOf_apply _ _

theorem loByte_sext16 (v : Byte) : loByte (sext16 v) = v := by
  apply BitVec.eq_of_getLsbD_eq
  intro i hi
  simp [loByte, sext16, BitVec.getLsbD_signExtend, hi]
  omega

/-- MUL (R223, R360). -/
theorem exec_mul (s : State) : ∃ t, exec .mul s = .next t ∧ (t.reg .D).toNat = s.a.toNat * s.b.toNat ∧
    t.flag .Z = decide (s.a.toNat * s.b.toNat = 0) ∧ t.flag .C = t.b.getLsbD 7 ∧ SameFlags [.Z, .C] s t ∧
    SameRegs [.A, .B] s t ∧ Quiet s t := by
  have product : (aluMul s.a s.b).result.toNat = s.a.toNat * s.b.toNat :=
    Nat.mod_eq_of_lt ((Nat.mul_lt_mul'' s.a.isLt s.b.isLt).trans_le (by decide))
  have flags : SetsFlags (aluMul s.a s.b).update s s.mul := s.put16_setsFlags _
  have low : s.mul.b = loByte (aluMul s.a s.b).result := rfl
  refine ⟨s.mul, rfl, ?_, ?_, ?_, flags.same fun f hf => ?_, sameRegs_st1 (s.put16_sameRegs _) .D,
    State.Computes.quiet rfl⟩
  · rw [State.mul, State.st1, State.reg_setReg_same]
    exact product
  · rw [← product, ← isZero_eq]
    exact flags .Z
  · rw [flags .C, low, loByte_eq_setWidth, BitVec.getLsbD_setWidth]
    rfl
  · cases f with
    | Z | C => simp at hf
    | _ => rfl

/-- SEX (R362): the write of D leaves B as it was. -/
theorem exec_sex (s : State) : ∃ t, exec .sex s = .next t ∧ (t.reg .D).toInt = s.b.toInt ∧ FlagsNZ s.b t ∧
    SameFlags [.N, .Z] s t ∧ SameRegs [.A] s t ∧ Quiet s t := by
  have flags : SetsFlags (aluSex s.b).update s ((s.put16 (aluSex s.b)).st1 .D) := s.put16_setsFlags _
  have low : ((s.put16 (aluSex s.b)).st1 .D).b = s.b := loByte_sext16 s.b
  refine ⟨_, rfl, ?_, ⟨flags .N, (flags .Z).trans (isZero_eq _)⟩, flags.same fun f hf => ?_, fun q hq hn => ?_,
    State.Computes.quiet rfl⟩
  · rw [State.st1, State.reg_setReg_same]
    exact BitVec.toInt_signExtend_of_le (by decide)
  · cases f with
    | N | Z => simp at hf
    | _ => rfl
  · by_cases onB : q = .B
    · rw [onB, State.reg_B, low, State.reg_B]
    · exact sameRegs_st1 (s.put16_sameRegs _) .D q hq (by simp_all [parts])

/-- ABX (R224, R363). -/
theorem exec_abx (s : State) : ∃ t, exec .abx s = .next t ∧ t.x = BitVec.ofNat 16 (s.x.toNat + s.b.toNat) ∧
    t.cc = s.cc ∧ SameRegs [.X] s t ∧ Quiet s t := by
  have loaded : SameRegs [] s { s with r1 := s.x + zext16 s.b } := fun q hq _ => by fin_cases hq <;> rfl
  refine ⟨s.abx, rfl, ?_, rfl, sameRegs_st1 loaded .X, State.Computes.quiet rfl⟩
  rw [BitVec.ofNat_add, BitVec.ofNat_toNat, BitVec.ofNat_toNat, BitVec.setWidth_eq]
  rfl

/-- Settles O41: the three instructions one by one. -/
theorem multiplyExtendAdd : Obligations.MultiplyExtendAdd := fun s => ⟨exec_mul s, exec_sex s, exec_abx s⟩

/-! ### DAA -/

/-- DAA (R225, R361). -/
theorem exec_daa (s : State) : ∃ t, exec .daa s = .next t ∧
    t.a = BitVec.ofNat 8 (daaSum s.a.toNat (s.flag .H) (s.flag .C)) ∧
    t.flag .C = (s.flag .C || decide (255 < daaSum s.a.toNat (s.flag .H) (s.flag .C))) ∧ FlagsNZ t.a t ∧
    OpenFlag .V s t ∧ SameFlags [.N, .Z, .V, .C] s t ∧ SameRegs [.A] s t ∧ Quiet s t := by
  obtain ⟨n, same⟩ : ∃ n, s.daa = State.st1
      { (s.ld1 .A).put8 (aluDaa s.a (s.flag .H) (s.flag .C) s.undefinedFlag) with draws := n } .A :=
    ⟨s.daa.draws, State.drawn_eq _⟩
  have flags : SetsFlags (aluDaa s.a (s.flag .H) (s.flag .C) s.undefinedFlag).update s s.daa := by
    rw [same]
    exact FlagUpdate.flagOf_apply _ _
  have result : s.daa.a = (aluDaa s.a (s.flag .H) (s.flag .C) s.undefinedFlag).result := by
    rw [same]
    exact loByte_zext16 _
  rw [aluDaa_eq] at flags result
  refine ⟨s.daa, rfl, result, flags .C, result ▸ ⟨flags .N, (flags .Z).trans (isZero_eq _)⟩, fun kept => ?_,
    flags.same fun f hf => ?_, ?_, State.Computes.quiet ?_⟩
  · rw [flags .V, s.undefinedFlag_unchanged kept]
    rfl
  · cases f with
    | N | Z | V | C => simp at hf
    | _ => rfl
  · rw [same]
    exact sameRegs_st1 (fun r hr _ => by fin_cases hr <;> rfl) .A
  · rw [same]
    rfl

/-- ADCA then DAA adds two decimal numbers below 100 and the carry: the binary sum is one of digits, tens and ones apart. -/
theorem exec_adca_daa (s : State) {x y : Nat} (hx : x < 100) (hy : y < 100) (ha : s.a = bcd x) :
    ∃ t u, exec (.adca (.imm (bcd y))) s = .next t ∧ exec .daa t = .next u ∧
      u.a = bcd ((x + y + (s.flag .C).toNat) % 100) ∧ u.flag .C = decide (100 ≤ x + y + (s.flag .C).toNat) := by
  obtain ⟨_, _, t, value, added, result, flags, -, -⟩ :=
    follows_adc8.binary8 s (r := .A) (by decide) (src := .imm (bcd y)) rfl
  cases value
  obtain ⟨u, adjusted, digits, carry, -⟩ := exec_daa t
  refine ⟨t, u, added, adjusted, ?_⟩
  have bit : (s.flag .C).toNat ≤ 1 := Bool.toNat_le _
  rw [← loByte_eq_setWidth, show loByte (s.reg .A) = bcd x from (loByte_zext16 s.a).trans ha] at result flags
  have sum : t.a = BitVec.ofNat 8 ((bcd x).toNat + (bcd y).toNat + (s.flag .C).toNat) :=
    (loByte_zext16 t.a).symm.trans ((congrArg loByte result).trans (loByte_zext16 _))
  have half : t.flag .H = decide (15 < (bcd x).toNat % 16 + (bcd y).toNat % 16 + (s.flag .C).toNat) := flags .H
  have full : t.flag .C = decide (255 < (bcd x).toNat + (bcd y).toNat + (s.flag .C).toNat) := flags .C
  rw [half, full, sum, BitVec.toNat_ofNat, toNat_bcd, toNat_bcd] at digits carry
  generalize (s.flag .C).toNat = c at *
  obtain ⟨tens, htens⟩ : ∃ n, n = x / 10 + y / 10 := ⟨_, rfl⟩
  obtain ⟨ones, hones⟩ : ∃ n, n = x % 10 + y % 10 + c := ⟨_, rfl⟩
  have whole : 16 * (x / 10 % 10) + x % 10 + (16 * (y / 10 % 10) + y % 10) + c = 16 * tens + ones := by omega
  have low : (16 * (x / 10 % 10) + x % 10) % 16 + (16 * (y / 10 % 10) + y % 10) % 16 + c = ones := by omega
  have total : x + y + c = 10 * tens + ones := by omega
  obtain ⟨decimal, hundred⟩ := daaSum_decimal tens (by omega) ones (by omega)
  rw [whole, low] at digits carry
  rw [total]
  refine ⟨digits.trans (BitVec.eq_of_toNat_eq ?_), carry.trans hundred⟩
  rw [BitVec.toNat_ofNat, toNat_bcd]
  exact decimal

/-- Settles O42: the rule of DAA, and after ADCA the decimal sum. -/
theorem decimalAdjust : Obligations.DecimalAdjust := ⟨exec_daa, fun s _ _ hx hy ha => exec_adca_daa s hx hy ha⟩

end Sys2Proof.Machine
end

section
/-! PROOF. Loads, stores and load effective address (R260 to R288): what a write of a 16-bit register and a 16-bit store
leave, and the instructions from these. The 8-bit forms are programs around `tst8`, whose rules stand above. -/

namespace Sys2Proof.Machine

open Sys2Proof.Claims

/-! ### Operands and flags -/

/-- The value of an 8-bit operand is what a load takes into `r1` after the addressing (R260). -/
theorem operand8r1_of_operand8 {s u : State} {src : Src8} {v : Byte} (h : operand8 s src = some (v, u)) :
    s.operand8r1 src = some { u with r1 := zext16 v } := by
  cases src with
  | imm v =>
    cases h
    rfl
  | mem m =>
    obtain ⟨w, resolved, same⟩ := Option.map_eq_some_iff.mp h
    cases same
    exact congrArg (Option.map _) resolved

/-- A well-formed 16-bit operand has a value after its addressing, which a load takes into `r1` (R260). -/
theorem operand16r1_of_wf {src : Src16} (s : State) (hw : src.wf = true) :
    ∃ v u, operand16 s src = some (v, u) ∧ s.operand16r1 src = some { u with r1 := v } ∧ s.Addressed u := by
  cases src with
  | imm v => exact ⟨v, s, rfl, rfl, rfl⟩
  | mem m =>
    obtain ⟨u, resolved, hu⟩ := resolveEA_of_wf s hw
    exact ⟨wordAt u u.ea, u, congrArg (Option.map _) resolved, congrArg (Option.map _) resolved, hu⟩

theorem indx_of_wf {ix : Index} (s : State) (hw : ix.wf = true) : ∃ u, s.indx ix = some u ∧ s.Addressed u := by
  obtain ⟨u, resolved⟩ := Option.isSome_iff_exists.mp ((s.indx_isSome ix).trans hw)
  exact ⟨u, resolved, State.indx_addressed resolved⟩

/-- The flags a descriptor sets depend on the old CC alone. -/
theorem SetsFlags.of_cc {d : FlagUpdate} {s u t : State} (h : SetsFlags d u t) (same : u.cc = s.cc) : SetsFlags d s t :=
  fun f => same ▸ h f

/-- The flag step of a 16-bit test is that of an 8-bit one (R226, R227). -/
theorem SetsFlags.logicWord {v : Word} {s t : State} (h : SetsFlags (logicFlags v) s t) :
    FlagsNZ v t ∧ t.flag .V = false ∧ SameFlags [.N, .Z, .V] s t := by
  refine ⟨⟨h .N, (h .Z).trans (isZero_eq v)⟩, h .V, h.same fun f hf => ?_⟩
  cases f with
  | N | Z | V => simp at hf
  | _ => rfl

/-! ### A write of a 16-bit register after the addressing -/

/-- A write of a 16-bit register, after the addressing that left `u`: CC and the scratch registers may change besides. -/
structure WritesWord (r : Reg) (v : Word) (s u t : State) : Prop where
  value : t.reg r = v
  regs : SameRegs (parts r) u t
  quiet : Quiet s t

/-- The registers that hold 16 bits and are no PC (R20). -/
abbrev wordRegs : List Reg := [.D, .X, .Y, .U, .S]

section
variable {s u : State} {r : Reg} (hu : s.Addressed u) (hr : r ∈ wordRegs) (v : Word)
include hr

/-- `r1` is no register, and CC is none of the 16-bit ones. -/
theorem WritesWord.withScratch {t : State} (h : WritesWord r v s u t) (cc : Byte) (r1 : Word) :
    WritesWord r v s u { t with cc := cc, r1 := r1 } := by
  have read (q : Reg) (hq : q ≠ .CC) : ({ t with cc := cc, r1 := r1 } : State).reg q = t.reg q := by
    cases q with
    | CC => exact absurd rfl hq
    | _ => rfl
  exact ⟨(read r (by rintro rfl; simp at hr)).trans h.value,
    fun q hq hn => (read q (by rintro rfl; simp at hq)).trans (h.regs q hq hn), h.quiet⟩

/-- A load tests what it has written (R263). -/
theorem State.tst16_st1 (u : State) : (State.st1 { u with r1 := v } r).tst16 =
    { u.setReg r v with cc := (logicFlags v).apply u.cc, r1 := v } := by
  fin_cases hr <;> rfl

include hu

theorem State.Addressed.cc_setReg : (u.setReg r v).cc = s.cc :=
  (u.setReg_cc_of_ne v (by rintro rfl; simp at hr)).trans hu.cc

theorem State.Addressed.writesWord : WritesWord r v s u (u.setReg r v) := by
  have fits : narrow r v = v := by fin_cases hr <;> rfl
  have only : u.Computes (u.setReg r v) := by fin_cases hr <;> rfl
  exact ⟨(u.reg_setReg_same r v).trans fits,
    fun q hq hn => u.reg_setReg_other v (by rintro rfl; simp at hq) hn, (hu.computes.trans only).quiet⟩

end

/-! ### A list of stores after a computation -/

/-- The stores of a list are what `Stores` says of them (R62). -/
theorem stores_storeAll {s : State} (hw : Memory.wf s.mem = true) (ps : List (Word × Byte)) :
    Stores ps [] [] s (storeAll s ps) := by
  refine ⟨rfl, by simp, rfl, fun k => by simp, fun hd => ⟨peek_storeAll hd hw ps, ?_, ?_, fun k => ?_⟩⟩ <;>
    rw [storeAll_free hd] <;> simp

/-- A `poke` looks at nothing that a computation changes, and changes nothing that it does (R62). -/
theorem State.Computes.poke {s t : State} (h : s.Computes t) (p : Word) (v : Byte) :
    (s.poke p v).Computes (t.poke p v) := by
  rw [h]
  rfl

theorem State.Computes.storeAll {s t : State} (h : s.Computes t) (ps : List (Word × Byte)) :
    (Claims.storeAll s ps).Computes (Claims.storeAll t ps) := by
  induction ps generalizing s t with
  | nil => exact h
  | cons p ps ih => exact ih (h.poke p.1 p.2)

/-- A computation after the stores changes nothing of what they leave. -/
theorem Stores.of_computes {ps : List (Word × Byte)} {after : List Event} {cleared : List IntKind} {s t v : State}
    (h : Stores ps after cleared s t) (only : t.Computes v) : Stores ps after cleared s v := by
  rw [only]
  exact h

/-- The stores of a list at the end of a computation. -/
theorem State.Computes.storesAll {s t : State} (h : s.Computes t) (hw : Memory.wf s.mem = true) (ps : List (Word × Byte)) :
    Stores ps [] [] s (Claims.storeAll t ps) :=
  Stores.of_computes (stores_storeAll hw ps) (h.storeAll ps)

/-! ### The instructions -/

/-- An 8-bit load may test before it writes: the register gets the byte that `tst8` passes through (R226, R261). -/
theorem State.tst8_st1 (u : State) (v : Byte) {r : Reg} (hr : r ∈ [Reg.A, .B]) :
    (State.st1 { u with r1 := zext16 v } r).tst8 = (State.tst8 { u with r1 := zext16 v }).st1 r := by
  have passed : (State.tst8 { u with r1 := zext16 v }).r1 = zext16 v := congrArg zext16 (loByte_zext16 v)
  rw [State.st1, State.st1, passed]
  fin_cases hr <;> rfl

/-- Settles O27: a load is a test whose result goes to the register. -/
theorem loadByte : Obligations.LoadByte := by
  intro p hp src s hw
  obtain ⟨accumulator, meaning⟩ : p.2 ∈ [Reg.A, .B] ∧ exec (p.1 src) s = load8 p.2 src s := by
    fin_cases hp <;> exact ⟨by decide, rfl⟩
  obtain ⟨v, u, value, -, hu⟩ := operand8_of_wf s hw
  obtain ⟨result, flags, regs, quiet⟩ := follows_tst8.accumulates hu accumulator (zext16 v) u.r2
  rw [loByte_zext16] at result flags
  obtain ⟨nz, clear, same⟩ := flags.logic
  refine ⟨v, u, _, value, meaning.trans (State.orIllegal_some (operand8r1_of_operand8 value)), ?_⟩
  rw [State.tst8_st1 u v accumulator]
  exact ⟨result, nz, clear, same, regs, quiet⟩

/-- Settles O28: the register is written after the addressing, so the loaded word wins over an increment of it. -/
theorem loadWord : Obligations.LoadWord := by
  intro p hp src s hw
  obtain ⟨word, meaning⟩ : p.2 ∈ wordRegs ∧ exec (p.1 src) s = load16 p.2 src s := by
    fin_cases hp <;> exact ⟨by decide, rfl⟩
  obtain ⟨v, u, value, resolved, hu⟩ := operand16r1_of_wf s hw
  have written := (hu.writesWord word v).withScratch word v ((logicFlags v).apply u.cc) v
  have flags : SetsFlags (logicFlags v) u { u.setReg p.2 v with cc := (logicFlags v).apply u.cc, r1 := v } :=
    FlagUpdate.flagOf_apply _ _
  obtain ⟨nz, clear, same⟩ := (flags.of_cc hu.cc).logicWord
  refine ⟨v, u, _, value, meaning.trans (State.orIllegal_some resolved), ?_⟩
  rw [State.tst16_st1 word v u]
  exact ⟨written.value, nz, clear, same, written.regs, written.quiet⟩

/-- Settles O29: a store is a test whose result goes to the address; addressing moves no accumulator. -/
theorem storeByte : Obligations.StoreByte := by
  intro p hp m s hm hw
  obtain ⟨accumulator, meaning⟩ : p.2 ∈ [Reg.A, .B] ∧ exec (p.1 m) s = store8 p.2 m s := by
    fin_cases hp <;> exact ⟨by decide, rfl⟩
  obtain ⟨u, resolved, hu⟩ := resolveEA_of_wf s hm
  obtain ⟨stores, flags, regs, straight⟩ := follows_tst8.rewrites hu hw (s.reg p.2) u.r2
  rw [← hu.ld1 accumulator, loByte_eq_setWidth] at stores flags
  rw [← hu.ld1 accumulator] at regs straight
  obtain ⟨nz, clear, same⟩ := flags.logic
  exact ⟨u, _, resolved, meaning.trans (State.orIllegal_some resolved), stores, nz, clear, same, regs, straight⟩

/-- Settles O30: the two stores of the word, after a test that only computes. -/
theorem storeWord : Obligations.StoreWord := by
  intro p hp m s hm hw
  have meaning : exec (p.1 m) s = store16 p.2 m s := by fin_cases hp <;> rfl
  obtain ⟨u, resolved, hu⟩ := resolveEA_of_wf s hm
  have computes : s.Computes (u.ld1 p.2).tst16 := hu.computes.trans rfl
  have stores := computes.storesAll hw (wordStores u.ea (u.reg p.2))
  have flags : SetsFlags (logicFlags (u.reg p.2)) u (u.ld1 p.2).tst16.stor16 := FlagUpdate.flagOf_apply _ _
  obtain ⟨nz, clear, same⟩ := (flags.of_cc hu.cc).logicWord
  rw [← State.memWrite16_eq_storeAll] at stores
  exact ⟨u, _, resolved, meaning.trans (State.orIllegal_some resolved), stores, nz, clear, same,
    fun q hq _ => by fin_cases hq <;> rfl, computes.straight⟩

/-- Settles O31: the address is written as a loaded word is; LEAX and LEAY set Z after it. -/
theorem loadEffectiveAddress : Obligations.LoadEffectiveAddress := by
  refine ⟨fun p hp ix s hw => ?_, fun p hp ix s hw => ?_⟩
  · obtain ⟨word, part, meaning⟩ : p.2 ∈ wordRegs ∧ parts p.2 = [p.2] ∧ exec (p.1 ix) s = leaZ p.2 ix s := by
      fin_cases hp <;> exact ⟨by decide, rfl, rfl⟩
    obtain ⟨u, resolved, hu⟩ := indx_of_wf s hw
    obtain ⟨value, regs, quiet⟩ := (hu.writesWord word u.ea).withScratch word u.ea
      (FlagUpdate.apply { z := isZero u.ea } (u.setReg p.2 u.ea).cc) (u.setReg p.2 u.ea).r1
    have flags : SetsFlags { z := isZero u.ea } s ((u.setReg p.2 u.ea).flags { z := isZero u.ea }) :=
      SetsFlags.of_cc (State.flag_flags _ _) (hu.cc_setReg word u.ea)
    refine ⟨u, _, resolved, meaning.trans (State.orIllegal_some resolved), value, (flags .Z).trans (isZero_eq _),
      flags.same fun f hf => ?_, part ▸ regs, quiet⟩
    cases f with
    | Z => simp at hf
    | _ => rfl
  · obtain ⟨word, part, meaning⟩ : p.2 ∈ wordRegs ∧ parts p.2 = [p.2] ∧ exec (p.1 ix) s = lea p.2 ix s := by
      fin_cases hp <;> exact ⟨by decide, rfl, rfl⟩
    obtain ⟨u, resolved, hu⟩ := indx_of_wf s hw
    obtain ⟨value, regs, quiet⟩ := hu.writesWord word u.ea
    exact ⟨u, _, resolved, meaning.trans (State.orIllegal_some resolved), value, hu.cc_setReg word u.ea, part ▸ regs,
      quiet⟩

end Sys2Proof.Machine
end

section
/-! PROOF. Transfer and exchange (R290, R291): what one write of a register leaves, and after two writes which of them a
register shows. -/

namespace Sys2Proof.Machine

open Sys2Proof.Claims

section
variable {s t : State} (r : Reg) (v : Word)

/-- A write of a register stores nothing. -/
theorem sameMemory_setReg (h : SameMemory s t) : SameMemory s (t.setReg r v) := by
  simpa [SameMemory] using h

theorem sameRest_setReg (h : SameRest s t) : SameRest s (t.setReg r v) := by
  simpa [SameRest] using h

end

/-- A register name that shares no stored register with another reads as before a write of that other (R23). -/
theorem State.reg_setReg_of_disjoint (s : State) {p q : Reg} (v : Word) (h : ∀ r ∈ parts p, r ∉ parts q) :
    (s.setReg q v).reg p = s.reg p := by
  cases p with
  | D =>
    cases q with
    | A | B | D => simp [parts] at h
    | _ => rfl
  | _ => exact s.reg_setReg_other v (by decide) (h _ (by decide))

/-- The scratch registers are none of the registers (R20, R30). -/
theorem State.reg_loaded (s : State) (x y : Word) (r : Reg) : ({ s with r1 := x, r2 := y } : State).reg r = s.reg r := by
  cases r <;> rfl

/-- TFR is one write, of what the source reads (R290). -/
theorem exec_tfr (p q : Reg) (s : State) :
    exec (.tfr (.reg p) (.reg q)) s = .next (State.setReg { s with r1 := s.reg p } q (s.reg p)) := rfl

/-- EXG is two writes of what was read before either, the destination's the second (R291). -/
theorem exec_exg (p q : Reg) (s : State) : exec (.exg (.reg p) (.reg q)) s =
    .next ((State.setReg { s with r1 := s.reg p, r2 := s.reg q } p (s.reg q)).setReg q (s.reg p)) := by
  have second : (s.ld1 p).reg q = s.reg q := s.reg_loaded (s.reg p) s.r2 q
  show Host.Outcome.next ((((s.ld1 p).ld2 q).st2 p).st1 q) = _
  rw [State.st1, State.st2, State.setReg_r1, State.ld2_r1, State.ld1_r1, State.ld2_r2, State.ld2, second]
  rfl

/-- Settles O32: what a register reads after the one write of TFR, and after the two of EXG. -/
theorem transferAndExchange : Obligations.TransferAndExchange := by
  refine ⟨fun p q s => ?_, fun p q s => ?_⟩
  · let u : State := { s with r1 := s.reg p }
    obtain ⟨⟨-, -, rest⟩, memory, -⟩ : Quiet s u := State.Computes.quiet rfl
    refine ⟨u.setReg q (s.reg p), exec_tfr p q s, u.reg_setReg_same q _, fun r hr hn => ?_, u.setReg_cc_of_ne _,
      u.setReg_pc_of_ne _, u.setReg_events q _, u.setReg_ntck q _, sameMemory_setReg q _ memory, sameRest_setReg q _ rest⟩
    rw [u.reg_setReg_other _ (by rintro rfl; simp at hr) hn]
    exact s.reg_loaded _ _ r
  · let u : State := { s with r1 := s.reg p, r2 := s.reg q }
    obtain ⟨⟨-, -, rest⟩, memory, -⟩ : Quiet s u := State.Computes.quiet rfl
    refine ⟨(u.setReg p (s.reg q)).setReg q (s.reg p), exec_exg p q s, State.reg_setReg_same _ q _, ?_, ?_, ?_,
      fun r hr hn => ?_, fun hp hq => ?_, fun hp hq => ?_, ?_, sameMemory_setReg q _ (sameMemory_setReg p _ memory),
      sameRest_setReg q _ (sameRest_setReg p _ rest)⟩
    · rintro (apart | rfl)
      · rw [State.reg_setReg_of_disjoint _ _ apart, State.reg_setReg_same]
      · exact State.reg_setReg_same _ p _
    · rintro rfl rfl
      exact loByte_zext16 s.a
    · rintro rfl rfl
      exact hiByte_zext16 s.b
    · obtain ⟨hp, hq⟩ := not_or.mp (fun h => hn (List.mem_append.mpr h))
      have stored : r ≠ .D := by rintro rfl; simp at hr
      rw [State.reg_setReg_other _ _ stored hq, State.reg_setReg_other _ _ stored hp]
      exact s.reg_loaded _ _ r
    · rw [State.setReg_cc_of_ne _ _ hq, State.setReg_cc_of_ne _ _ hp]
    · rw [State.setReg_pc_of_ne _ _ hq, State.setReg_pc_of_ne _ _ hp]
    · rw [State.setReg_ntck, State.setReg_ntck]

end Sys2Proof.Machine
end

section
/-! PROOF. Subtraction, and 16-bit arithmetic and comparison (R304 to R309, R320 to R326): the flags of a difference, what a
program around a 16-bit primitive leaves, and the instructions from these. -/

namespace Sys2Proof.Machine

open Sys2Proof.Claims

/-! ### The flags of a difference (R202, R208 to R210) -/

theorem ofInt_sub {w : Nat} (x y : Int) : BitVec.ofInt w (x - y) = BitVec.ofInt w x - BitVec.ofInt w y := by
  rw [Int.sub_eq_add_neg, BitVec.ofInt_add, BitVec.ofInt_neg, BitVec.sub_eq_add_neg]

/-- The narrowed difference is the same of the unsigned and of the signed operands. -/
theorem aluSub_result {w : Nat} (a b : BitVec w) (c : Bool) (h : Option Bool) :
    (aluSub a b c h).result = BitVec.ofInt w (a.toInt - b.toInt - c.toNat) := by
  rw [ofInt_sub, ofInt_sub, BitVec.ofInt_toInt, BitVec.ofInt_toInt, ← ofInt_sub_toNat a b]
  exact ofInt_sub _ _

/-- Subtracting is adding the complement, the carry inverted: the Overflow laws agree on it (R202). -/
theorem subOverflow_eq_addOverflow_not {w : Nat} (a b r : BitVec (w + 1)) :
    subOverflow a b r = addOverflow a (~~~b) r := by
  simp only [subOverflow, addOverflow, BitVec.msb_and, BitVec.msb_xor, BitVec.msb_not]
  cases a.msb <;> cases b.msb <;> cases r.msb <;> rfl

/-- The signed difference leaves -128..127 where the sum with the complement does (R202). -/
theorem subOverflow_byte (a b : Byte) (c : Bool) : subOverflow a b (BitVec.ofInt 8 (a.toNat - b.toNat - c.toNat)) =
    decide (a.toInt - b.toInt - c.toNat < -128 ∨ 127 < a.toInt - b.toInt - c.toNat) := by
  have carry : (!c).toNat = 1 - (c.toNat : Int) := by cases c <;> rfl
  have complement : (~~~b).toNat = 255 - (b.toNat : Int) := by
    have := b.isLt
    rw [BitVec.toNat_not]
    omega
  have signed : (~~~b).toInt = -b.toInt - 1 := by
    rcases byte_sign b with ⟨-, vb, hb⟩ | ⟨-, vb, hb⟩ <;>
      rcases byte_sign (~~~b) with ⟨-, vn, hn⟩ | ⟨-, vn, hn⟩ <;> omega
  have sum : BitVec.ofInt 8 (a.toNat - b.toNat - c.toNat) =
      BitVec.ofNat 8 (a.toNat + (~~~b).toNat + (!c).toNat) := by
    apply BitVec.eq_of_toNat_eq
    rw [BitVec.toNat_ofInt, BitVec.toNat_ofNat]
    omega
  rw [subOverflow_eq_addOverflow_not, sum, addOverflow_adc8, decide_eq_decide]
  omega

/-- The signed difference of words, with no borrow in, leaves -32768..32767 (R202). -/
theorem subOverflow_word (a b : Word) : subOverflow a b (a - b) =
    decide (a.toInt - b.toInt < -32768 ∨ 32767 < a.toInt - b.toInt) := by
  rw [subOverflow_sub, BitVec.ssubOverflow, ← Bool.decide_or, decide_eq_decide]
  omega

/-- The signed sum leaves -32768..32767 where both operands have the sign that the result has not (R202). -/
theorem addOverflow_word (a b : Word) : addOverflow a b (a + b) =
    decide (a.toInt + b.toInt < -32768 ∨ 32767 < a.toInt + b.toInt) := by
  have library : addOverflow a b (a + b) = a.saddOverflow b := by
    rw [addOverflow, BitVec.saddOverflow_eq, BitVec.msb_and, BitVec.msb_xor, BitVec.msb_xor]
    cases a.msb <;> cases b.msb <;> cases (a + b).msb <;> rfl
  rw [library, BitVec.saddOverflow, ← Bool.decide_or, decide_eq_decide]
  omega

/-- The flags of a subtraction of either width but V, of which each width has its own range. -/
theorem SetsFlags.subtract {w : Nat} {a b : BitVec w} {c : Bool} {s t : State}
    (flags : SetsFlags (aluSub a b c s.undefinedFlag).update s t) :
    FlagsNZ (aluSub a b c s.undefinedFlag).result t ∧ t.flag .C = decide (a.toNat < b.toNat + c.toNat) ∧
      OpenFlag .H s t ∧ SameFlags [.N, .Z, .V, .C, .H] s t := by
  have carry : t.flag .C = decide ((a.toNat : Int) - b.toNat - c.toNat < 0) := flags .C
  have half : t.flag .H = s.undefinedFlag.getD (s.flag .H) := flags .H
  refine ⟨⟨flags .N, (flags .Z).trans (isZero_eq _)⟩, ?_, fun kept => ?_, flags.same fun f hf => ?_⟩
  · rw [carry, decide_eq_decide]
    omega
  · rw [half, s.undefinedFlag_unchanged kept]
    rfl
  · cases f with
    | I | F | E => rfl
    | _ => simp at hf

/-- The flags of a 16-bit subtraction. -/
theorem SetsFlags.subtractWord {a b : Word} {s t : State} (flags : SetsFlags (aluSub16 a b s.undefinedFlag).update s t) :
    FlagsNZ (a - b) t ∧ t.flag .C = decide (a.toNat < b.toNat) ∧
      t.flag .V = decide (a.toInt - b.toInt < -32768 ∨ 32767 < a.toInt - b.toInt) ∧
      OpenFlag .H s t ∧ SameFlags [.N, .Z, .V, .C, .H] s t := by
  obtain ⟨nz, carry, half, same⟩ := flags.subtract
  have overflow : t.flag .V = (aluSub a b false s.undefinedFlag).update.value s.cc .V := flags .V
  rw [aluSub_false] at nz overflow
  exact ⟨nz, carry, overflow.trans (subOverflow_word a b), half, same⟩

/-- The result of a 16-bit addition is the sum of the words (R207). -/
theorem aluAdd16_eq (a b : Word) : aluAdd16 a b = ⟨a + b, {
    n := (a + b).msb, z := isZero (a + b), v := addOverflow a b (a + b), c := decide (65535 < a.toNat + b.toNat) }⟩ := by
  rw [BitVec.add_def]
  rfl

/-- The flags of a 16-bit addition, which leaves H as it was (R207). -/
theorem SetsFlags.addWord {a b : Word} {s t : State} (flags : SetsFlags (aluAdd16 a b).update s t) :
    FlagsNZ (a + b) t ∧ t.flag .C = decide (65535 < a.toNat + b.toNat) ∧
      t.flag .V = decide (a.toInt + b.toInt < -32768 ∨ 32767 < a.toInt + b.toInt) ∧
      t.flag .H = s.flag .H ∧ SameFlags [.N, .Z, .V, .C, .H] s t := by
  rw [aluAdd16_eq] at flags
  refine ⟨⟨flags .N, (flags .Z).trans (isZero_eq _)⟩, flags .C, (flags .V).trans (addOverflow_word a b), flags .H,
    flags.same fun f hf => ?_⟩
  cases f with
  | I | F | E => rfl
  | _ => simp at hf

/-! ### A 16-bit primitive and its law -/

/-- A well-formed 16-bit operand has a value after its addressing, which goes into `r2` (R260). -/
theorem operand16r2_of_wf {src : Src16} (s : State) (hw : src.wf = true) :
    ∃ v u, operand16 s src = some (v, u) ∧ s.operand16r2 src = some { u with r2 := v } ∧ s.Addressed u := by
  cases src with
  | imm v => exact ⟨v, s, rfl, rfl, rfl⟩
  | mem m =>
    obtain ⟨u, resolved, hu⟩ := resolveEA_of_wf s hw
    exact ⟨wordAt u u.ea, u, congrArg (Option.map _) resolved, congrArg (Option.map _) resolved, hu⟩

/-- The result and the descriptor of a 16-bit primitive, from its operands and what happens to the flag that U8 leaves open. -/
abbrev WordLaw := Word → Word → Option Bool → Alu 16

/-- An operation that puts into `r1` and CC what a 16-bit law says, and draws at most. -/
def FollowsWord (op : State → State) (law : WordLaw) : Prop :=
  ∀ s, ∃ n, op s = { s.put16 (law s.r1 s.r2 s.undefinedFlag) with draws := n }

theorem followsWord_add16 : FollowsWord State.add16 fun a b _ => aluAdd16 a b := fun _ => ⟨_, rfl⟩

theorem followsWord_sub16 : FollowsWord State.sub16 aluSub16 := fun _ => ⟨_, State.drawn_eq _⟩

/-- A 16-bit test, after the addressing that left `u`: the result in `r1`, the flags, no more. -/
structure TestsWord (alu : Alu 16) (s u t : State) : Prop where
  r1 : t.r1 = alu.result
  flags : SetsFlags alu.update s t
  regs : SameRegs [] u t
  quiet : Quiet s t

/-- The result of a test, written to D. -/
theorem TestsWord.writesD {alu : Alu 16} {s u t : State} (h : TestsWord alu s u t) :
    WritesWord .D alu.result s u (t.st1 .D) :=
  ⟨(State.reg_setReg_same t .D t.r1).trans h.r1, sameRegs_st1 h.regs .D, h.quiet⟩

/-- The register of a 16-bit compare is that of before the addressing or of after it (R323 to R326, log 10). -/
abbrev compareWord (old : Bool) (op : State → State) (r : Reg) (src : Src16) (s : State) : Outcome :=
  if old then test16Old op r src s else test16 op r src s

/-- A register loaded into `r1` after the addressing and the fetch of an operand into `r2`. -/
theorem State.ld1_loaded (u : State) (r : Reg) (y : Word) :
    State.ld1 { u with r2 := y } r = { u with r1 := u.reg r, r2 := y } :=
  congrArg (fun x => { u with r1 := x, r2 := y }) (u.reg_loaded u.r1 y r)

/-- Addressing moves neither A nor B, so not D. -/
theorem State.Addressed.reg_D {s u : State} (h : s.Addressed u) : u.reg .D = s.reg .D := by
  rw [h]
  rfl

/-- D is a view of A and B (R23). -/
theorem reg_D_of_sameRegs {s t : State} (h : SameRegs [] s t) : t.reg .D = s.reg .D := by
  have a : t.a = s.a := by simpa using congrArg loByte (h .A (by decide) List.not_mem_nil)
  have b : t.b = s.b := by simpa using congrArg loByte (h .B (by decide) List.not_mem_nil)
  exact congrArg₂ wordOf a b

section
variable {op : State → State} {law : WordLaw} (ho : FollowsWord op law)
include ho

theorem FollowsWord.testsWord {s u : State} (hu : s.Addressed u) (x y : Word) :
    TestsWord (law x y s.undefinedFlag) s u (op { u with r1 := x, r2 := y }) := by
  obtain ⟨n, hn⟩ := ho { u with r1 := x, r2 := y }
  rw [hn]
  refine ⟨?_, ?_, fun r hr _ => by fin_cases hr <;> rfl, State.Computes.quiet (hu.computes.trans rfl)⟩
  · rw [hu]
    rfl
  · rw [hu]
    exact FlagUpdate.flagOf_apply _ _

variable (s : State) {src : Src16} (hw : src.wf = true)
include hw

/-- A compare of a 16-bit register and an operand (R322 to R326). -/
theorem FollowsWord.compareWord (old : Bool) (r : Reg) :
    ∃ b u t, operand16 s src = some (b, u) ∧ Machine.compareWord old op r src s = .next t ∧ s.Addressed u ∧
      TestsWord (law ((if old then s else u).reg r) b s.undefinedFlag) s u t := by
  obtain ⟨b, u, value, resolved, hu⟩ := operand16r2_of_wf s hw
  refine ⟨b, u, _, value, ?_, hu, ho.testsWord hu ((if old then s else u).reg r) b⟩
  cases old with
  | true => exact State.orIllegal_some resolved
  | false =>
    refine (State.orIllegal_some resolved).trans ?_
    rw [State.ld1_loaded]
    rfl

/-- D and an operand, the result in D (R304, R309). -/
theorem FollowsWord.binaryD :
    ∃ b u t, operand16 s src = some (b, u) ∧ binary16 op .D src s = .next t ∧
      WritesWord .D (law (s.reg .D) b s.undefinedFlag).result s u t ∧
      SetsFlags (law (s.reg .D) b s.undefinedFlag).update s t := by
  obtain ⟨b, u, value, resolved, hu⟩ := operand16r2_of_wf s hw
  have tested := ho.testsWord hu (u.reg .D) b
  rw [← State.ld1_loaded, hu.reg_D] at tested
  exact ⟨b, u, _, value, State.orIllegal_some resolved, tested.writesD, tested.flags⟩

end

/-! ### The instructions -/

theorem follows_sbc8 : Follows State.sbc8 fun a b c h => aluSub a b c h := fun _ => ⟨_, State.drawn_eq _⟩

/-- Settles O34: SUB and CMP are SBC with no borrow in; a compare is a test. -/
theorem subtractByte : Obligations.SubtractByte := by
  intro p hp src s hw
  obtain ⟨accumulator, op, follows, meaning⟩ : p.2.1 ∈ [Reg.A, .B] ∧
      ∃ op, Follows op (fun a b c h => aluSub a b (p.2.2.1 && c) h) ∧
        exec (p.1 src) s = if p.2.2.2 then binary8 op p.2.1 src s else test8 op p.2.1 src s := by
    fin_cases hp
    iterate 2 exact ⟨by decide, _, follows_sub8, rfl⟩
    iterate 2 exact ⟨by decide, _, follows_sbc8, rfl⟩
    iterate 2 exact ⟨by decide, _, follows_sub8, rfl⟩
  rw [meaning]
  cases p.2.2.2 with
  | false =>
    obtain ⟨b, u, t, value, run, kept, flags, regs, quiet⟩ := follows.test8 s accumulator hw
    obtain ⟨nz, carry, half, same⟩ := flags.subtract
    rw [aluSub_result] at nz
    exact ⟨b, u, t, value, run, kept, nz, carry, (flags .V).trans (subOverflow_byte _ b _), half, same,
      fun q hq _ => regs q hq List.not_mem_nil, quiet⟩
  | true =>
    obtain ⟨b, u, t, value, run, result, flags, regs, quiet⟩ := follows.binary8 s accumulator hw
    obtain ⟨nz, carry, half, same⟩ := flags.subtract
    rw [aluSub_result] at result nz
    exact ⟨b, u, t, value, run, result, nz, carry, (flags .V).trans (subOverflow_byte _ b _), half, same, regs, quiet⟩

/-- Settles O35: ADDD and SUBD write their result to D, CMPD tests; addressing does not move D. -/
theorem wordArithmeticOnD : Obligations.WordArithmeticOnD := by
  intro p hp src s hw
  fin_cases hp
  · obtain ⟨b, u, t, value, run, ⟨result, regs, quiet⟩, flags⟩ := followsWord_add16.binaryD s hw
    obtain ⟨nz, carry, overflow, half, same⟩ := flags.addWord
    rw [aluAdd16_eq] at result
    exact ⟨b, u, t, value, run, result, nz, carry, overflow, half, same, regs, quiet⟩
  · obtain ⟨b, u, t, value, run, ⟨result, regs, quiet⟩, flags⟩ := followsWord_sub16.binaryD s hw
    obtain ⟨nz, carry, overflow, half, same⟩ := flags.subtractWord
    rw [aluSub16, aluSub_false] at result
    exact ⟨b, u, t, value, run, result, nz, carry, overflow, half, same, regs, quiet⟩
  · obtain ⟨b, u, t, value, run, hu, -, flags, regs, quiet⟩ := followsWord_sub16.compareWord s hw false .D
    rw [if_neg Bool.false_ne_true, hu.reg_D] at flags
    obtain ⟨nz, carry, overflow, half, same⟩ := flags.subtractWord
    exact ⟨b, u, t, value, run, (reg_D_of_sameRegs regs).trans hu.reg_D, nz, carry, overflow, half, same,
      fun q hq _ => regs q hq List.not_mem_nil, quiet⟩

/-- The statement and the model name the same operands. -/
theorem increments_eq_autoIncrement (src : Src16) : increments src = autoIncrement src := by
  rcases src with v | ⟨lo | a | ⟨r, n⟩ | ⟨r, ind, m⟩⟩
  case mem.idx.mode =>
    cases m with
    | inc1 | inc2 => cases r <;> cases ind <;> rfl
    | _ => simp [increments, autoIncrement]
  all_goals rfl

/-- Settles O36: CMPX alone reads its register before an auto-increment (log 10). -/
theorem compareIndexRegister : Obligations.CompareIndexRegister := by
  intro p hp src s hw
  have meaning : exec (p.1 src) s = compareWord (p.2.2 && increments src) State.sub16 p.2.1 src s := by
    rw [increments_eq_autoIncrement]
    fin_cases hp <;> rfl
  obtain ⟨b, u, t, value, run, -, -, flags, regs, quiet⟩ :=
    followsWord_sub16.compareWord s hw (p.2.2 && increments src) p.2.1
  obtain ⟨nz, carry, overflow, half, same⟩ := flags.subtractWord
  exact ⟨b, u, t, value, meaning.trans run, nz, carry, overflow, half, same, regs, quiet⟩

end Sys2Proof.Machine
end

section
/-! PROOF. The condition-code masks (R410, R411): an instruction that only writes CC, and a flag as its bit of CC (R26). -/

namespace Sys2Proof.Machine

open Sys2Proof.Claims

/-- A write of CC shows in no register that a claim compares. -/
theorem sameRegs_cc (s : State) (v : Byte) : SameRegs [] s { s with cc := v } :=
  fun q hq _ => by fin_cases hq <;> rfl

theorem quiet_cc (s : State) (v : Byte) : Quiet s { s with cc := v } := State.Computes.quiet rfl

/-- ANDCC (R410). -/
theorem exec_andcc (m : Byte) (s : State) : ∃ t, exec (.andcc m) s = .next t ∧
    (∀ f : Flag, t.flag f = (s.flag f && m.getLsbD f.bit)) ∧ SameRegs [] s t ∧ Quiet s t :=
  ⟨_, rfl, fun _ => BitVec.getLsbD_and, sameRegs_cc s _, quiet_cc s _⟩

/-- ORCC (R411). -/
theorem exec_orcc (m : Byte) (s : State) : ∃ t, exec (.orcc m) s = .next t ∧
    (∀ f : Flag, t.flag f = (s.flag f || m.getLsbD f.bit)) ∧ SameRegs [] s t ∧ Quiet s t :=
  ⟨_, rfl, fun _ => BitVec.getLsbD_or, sameRegs_cc s _, quiet_cc s _⟩

/-- Settles O44: a flag is its bit of CC, and the bit of a conjunction (disjunction) is that of the bits. -/
theorem conditionCodeMasks : Obligations.ConditionCodeMasks := fun m s => ⟨exec_andcc m s, exec_orcc m s⟩

end Sys2Proof.Machine
end

section
/-! PROOF. Branches, calls, jumps and returns (R420 to R464): a branch is its displacement and an end of program that jumps on a
condition, a call is the stores of the return address and a jump, a return pulls a word. -/

namespace Sys2Proof.Machine

open Sys2Proof.Claims

/-! ### Branches (R420) -/

/-- A condition on C, Z, V and N, in this order. -/
abbrev BranchCond := Bool → Bool → Bool → Bool → Bool

/-- The test of `chk` as a condition (R166). -/
def ChkCond.test (c : ChkCond) : BranchCond := fun carry z v n =>
  match c with
  | .Z => z
  | .C => carry
  | .N => n
  | .V => v
  | .LS => carry || z
  | .LT => v ^^ n
  | .LE => z || (v ^^ n)

theorem ChkCond.holds_eq_test (c : ChkCond) (s : State) :
    c.holds s = c.test (s.flag .C) (s.flag .Z) (s.flag .V) (s.flag .N) := by
  cases c <;> rfl

/-- An end of program that goes to EA exactly on a condition, and changes nothing else. -/
def BranchesOn (cond : BranchCond) (k : State → State) : Prop :=
  ∀ s, Branches (cond (s.flag .C) (s.flag .Z) (s.flag .V) (s.flag .N)) s.ea s (k s)

theorem State.branches_jump (s : State) : Branches true s.ea s s.jump :=
  ⟨⟨rfl, rfl, rfl, rfl, rfl, rfl, rfl, rfl, rfl, rfl⟩, rfl, fun r hr _ => by fin_cases hr <;> rfl, fun _ => rfl, rfl,
    rfl⟩

theorem State.branches_stay (s : State) (target : Word) : Branches false target s s :=
  ⟨⟨rfl, rfl, rfl, rfl, rfl, rfl, rfl, rfl, rfl, rfl⟩, rfl, fun _ _ _ => rfl, fun _ => rfl, rfl, rfl⟩

theorem branchesOn_jump : BranchesOn (fun _ _ _ _ => true) State.jump := State.branches_jump

theorem branchesOn_stay : BranchesOn (fun _ _ _ _ => false) id := fun s => s.branches_stay s.ea

/-- `chk; qf; pc <- EA; ntck` goes when the test holds. -/
theorem branchesOn_branchIf {cond : BranchCond} (c : ChkCond) (same : ∀ carry z v n, cond carry z v n = c.test carry z v n) :
    BranchesOn cond (State.branchIf · c) := by
  intro s
  rw [same, ← c.holds_eq_test]
  show Branches (c.holds s) s.ea s (if c.holds s then (s.chk c).jump else s.chk c)
  cases c.holds s with
  | true => exact (s.chk c).branches_jump
  | false => exact (s.chk c).branches_stay s.ea

/-- `chk; qt; pc <- EA; ntck` goes when the test does not hold. -/
theorem branchesOn_branchIfNot {cond : BranchCond} (c : ChkCond)
    (same : ∀ carry z v n, cond carry z v n = !c.test carry z v n) : BranchesOn cond (State.branchIfNot · c) := by
  intro s
  rw [same, ← c.holds_eq_test]
  show Branches (!c.holds s) s.ea s (if c.holds s then s.chk c else (s.chk c).jump)
  cases c.holds s with
  | true => exact (s.chk c).branches_stay s.ea
  | false => exact (s.chk c).branches_jump

/-- Each short branch and the long branch of its row of the table have one condition and one end of program (R421 to R457). -/
theorem branch_row : ∀ p ∈ shortBranches.zip longBranches, p.2.2 = p.1.2 ∧ ∃ k, BranchesOn p.1.2 k ∧
    (∀ d s, exec (p.1.1 d) s = .next (k (s.rel8 d))) ∧ ∀ d s, exec (p.2.1 d) s = .next (k (s.rel16 d)) := by
  intro p hp
  fin_cases hp
  exacts [⟨rfl, _, branchesOn_jump, fun _ _ => rfl, fun _ _ => rfl⟩,
    ⟨rfl, _, branchesOn_stay, fun _ _ => rfl, fun _ _ => rfl⟩,
    ⟨rfl, _, branchesOn_branchIfNot .LS (by decide), fun _ _ => rfl, fun _ _ => rfl⟩,
    ⟨rfl, _, branchesOn_branchIf .LS (by decide), fun _ _ => rfl, fun _ _ => rfl⟩,
    ⟨rfl, _, branchesOn_branchIfNot .C (by decide), fun _ _ => rfl, fun _ _ => rfl⟩,
    ⟨rfl, _, branchesOn_branchIf .C (by decide), fun _ _ => rfl, fun _ _ => rfl⟩,
    ⟨rfl, _, branchesOn_branchIfNot .Z (by decide), fun _ _ => rfl, fun _ _ => rfl⟩,
    ⟨rfl, _, branchesOn_branchIf .Z (by decide), fun _ _ => rfl, fun _ _ => rfl⟩,
    ⟨rfl, _, branchesOn_branchIfNot .V (by decide), fun _ _ => rfl, fun _ _ => rfl⟩,
    ⟨rfl, _, branchesOn_branchIf .V (by decide), fun _ _ => rfl, fun _ _ => rfl⟩,
    ⟨rfl, _, branchesOn_branchIfNot .N (by decide), fun _ _ => rfl, fun _ _ => rfl⟩,
    ⟨rfl, _, branchesOn_branchIf .N (by decide), fun _ _ => rfl, fun _ _ => rfl⟩,
    ⟨rfl, _, branchesOn_branchIfNot .LT (by decide), fun _ _ => rfl, fun _ _ => rfl⟩,
    ⟨rfl, _, branchesOn_branchIf .LT (by decide), fun _ _ => rfl, fun _ _ => rfl⟩,
    ⟨rfl, _, branchesOn_branchIfNot .LE (by decide), fun _ _ => rfl, fun _ _ => rfl⟩,
    ⟨rfl, _, branchesOn_branchIf .LE (by decide), fun _ _ => rfl, fun _ _ => rfl⟩]

/-- Settles O45: a short or a long branch is the end of its row, after its displacement was added to PC into EA. -/
theorem conditionalBranches : Obligations.ConditionalBranches := by
  refine ⟨fun p hp d s => ?_, fun p hp d s => ?_⟩
  · obtain ⟨q, hq, rfl⟩ := List.mem_map.mp (show p ∈ (shortBranches.zip longBranches).map Prod.fst from hp)
    obtain ⟨-, k, branches, short, -⟩ := branch_row q hq
    exact ⟨_, short d s, branches (s.rel8 d)⟩
  · obtain ⟨q, hq, rfl⟩ := List.mem_map.mp (show p ∈ (shortBranches.zip longBranches).map Prod.snd from hp)
    obtain ⟨same, k, branches, -, long⟩ := branch_row q hq
    rw [same]
    exact ⟨_, long d s, branches (s.rel16 d)⟩

/-! ### Words on a stack (R66) -/

theorem pushes_wordBytes (p v : Word) : pushes p (wordBytes v) = [(p + 1, loByte v), (p, hiByte v)] := by
  simp [pushes, wordBytes]

/-- A pushed word: the pointer goes down by two, then the low byte is stored, then the high byte below it. -/
theorem State.push16_eq_storeAll (s : State) (sp : Stack) (v : Word) :
    s.push16 sp v = storeAll (s.setReg sp.reg (s.reg sp.reg - 2)) (pushes (s.reg sp.reg - 2) (wordBytes v)) := by
  have low (p : Word) : p - 2 + 1 = p - 1 := by bv_omega
  have high (p : Word) : p - 2 = p - 1 - 1 := by bv_omega
  rw [pushes_wordBytes, low, high]
  cases sp <;> rfl

/-- A pulled word is the one at the pointer, which goes up by two. -/
theorem State.pull16_eq (s : State) (sp : Stack) :
    s.pull16 sp = (wordAt s (s.reg sp.reg), s.setReg sp.reg (s.reg sp.reg + 2)) := by
  have two (p : Word) : p + 2 = p + 1 + 1 := by bv_omega
  rw [two]
  cases sp <;> rfl

/-- Of the registers a claim compares, S alone moves. -/
theorem sameRegs_but_s {s t : State} (a : t.a = s.a) (b : t.b = s.b) (x : t.x = s.x) (y : t.y = s.y) (u : t.u = s.u)
    (dp : t.dp = s.dp) : SameRegs [.S] s t := by
  intro r hr hn
  cases r with
  | A | B | DP => exact congrArg zext16 ‹_›
  | X | Y | U => assumption
  | S => simp at hn
  | D | PC | CC => simp at hr

/-! ### Calls (R460 to R462) -/

/-- Stores reach the bus alone (R62). -/
theorem storeAll_eq_withBus (s : State) (ps : List (Word × Byte)) : storeAll s ps = s.withBus (storeAll s ps).bus := by
  induction ps generalizing s with
  | nil => rfl
  | cons p ps ih => exact ih (s.poke p.1 p.2)

/-- A jump after the stores adds its `PcNotify`. -/
theorem Stores.jump {ps : List (Word × Byte)} {s t : State} (h : Stores ps [] [] s t) :
    Stores ps [.pcNotify t.ea] [] s t.jump := by
  obtain ⟨mem, events, devices, latches, free⟩ := h
  rw [List.append_nil] at events
  refine ⟨mem, congrArg (· ++ _) events, devices, latches, fun hd => ?_⟩
  obtain ⟨reads, told, rest⟩ := free hd
  rw [List.append_nil] at told
  exact ⟨reads, congrArg (· ++ _) told, rest⟩

/-- A call to EA, after the addressing that left `u`. -/
structure Calls (s u t : State) : Prop where
  jumped : Jumped u.ea s t
  pointer : t.s = u.s - 2
  stores : Stores (pushes (u.s - 2) (wordBytes s.pc)) [.pcNotify t.pc] [] s t
  cc : t.cc = s.cc
  regs : SameRegs [.S] u t

/-- A call pushes the PC of before the jump, below where the addressing left S. -/
theorem State.Addressed.calls {s u : State} (hu : s.Addressed u) (hw : Memory.wf s.mem = true) : Calls s u u.call := by
  have computes : s.Computes (u.setReg .S (u.s - 2)) := hu.computes.trans rfl
  obtain ⟨-, -, rest⟩ := computes.straight
  have stores := Stores.jump (computes.storesAll hw (pushes (u.s - 2) (wordBytes s.pc)))
  have called : u.call = (storeAll (u.setReg .S (u.s - 2)) (pushes (u.s - 2) (wordBytes s.pc))).jump :=
    hu.pc ▸ congrArg State.jump (u.push16_eq_storeAll .S u.pc)
  rw [storeAll_eq_withBus] at called stores
  rw [called]
  exact ⟨⟨rfl, rfl, rest⟩, rfl, stores, hu.cc, sameRegs_but_s rfl rfl rfl rfl rfl rfl⟩

/-- Settles O46: the displacement or the addressing leaves the target in EA, and the push does not move it. -/
theorem callsPushReturnAddress : Obligations.CallsPushReturnAddress := by
  intro s hw
  refine ⟨fun d => ?_, fun d => ?_, fun m hm => ?_⟩
  · obtain ⟨jumped, pointer, stores, cc, regs⟩ := State.Addressed.calls (u := s.rel8 d) rfl hw
    exact ⟨_, rfl, jumped, pointer, stores, cc, regs⟩
  · obtain ⟨jumped, pointer, stores, cc, regs⟩ := State.Addressed.calls (u := s.rel16 d) rfl hw
    exact ⟨_, rfl, jumped, pointer, stores, cc, regs⟩
  · obtain ⟨u, resolved, hu⟩ := resolveEA_of_wf s hm
    obtain ⟨jumped, pointer, stores, cc, regs⟩ := hu.calls hw
    exact ⟨u, _, resolved, State.orIllegal_some resolved, jumped, pointer, stores, cc, regs⟩

/-! ### JMP, RTS (R463, R464) -/

/-- Settles O47: JMP is the jump after the addressing, and RTS the one to the word pulled. -/
theorem jumpAndReturn : Obligations.JumpAndReturn := by
  refine fun s => ⟨fun m hm => ?_, ?_⟩
  · obtain ⟨u, resolved, hu⟩ := resolveEA_of_wf s hm
    obtain ⟨⟨-, -, rest⟩, memory, -⟩ := hu.computes.quiet
    obtain ⟨⟨pc, ntck, -⟩, -, regs, -⟩ := u.branches_jump
    exact ⟨u, _, resolved, State.orIllegal_some resolved, ⟨pc, ntck, rest⟩, hu.cc, regs, memory⟩
  · have pulled : s.pullReg .S .PC = (s.setReg .S (s.s + 2)).setPc (wordAt s s.s) :=
      congrArg (fun p => p.2.setPc p.1) (s.pull16_eq .S)
    have meaning : exec .rts s = .next { (s.setReg .S (s.s + 2)).setPc (wordAt s s.s) with ntck := true } := by
      rw [← pulled]
      rfl
    obtain ⟨⟨-, -, rest⟩, memory, -⟩ := State.Computes.quiet (t := s.setReg .S (s.s + 2)) rfl
    exact ⟨_, meaning, ⟨rfl, rfl, rest⟩, rfl, rfl, sameRegs_but_s rfl rfl rfl rfl rfl rfl, memory⟩

end Sys2Proof.Machine
end

section
/-! PROOF. Stacks (R66, R470 to R474, R485): a push of a register list is one list of stores below the pointer, a pull is a
reading of each selected register at its place; PSHS, PSHU, PULS, PULU, and CWAI as a push of the entire frame. -/

namespace Sys2Proof.Machine

open Sys2Proof.Claims

/-! ### Register lists (R102, R474) -/

/-- No list names its own stack pointer or D. -/
theorem listRegs_ne (sp : Stack) : ∀ e ∈ listRegs sp, e.2 ≠ sp.reg ∧ e.2 ≠ .D := by
  cases sp <;> decide

theorem selectedRegs_ne {sp : Stack} {pb : Byte} {r : Reg} (hr : r ∈ selectedRegs sp pb) : r ≠ sp.reg := by
  obtain ⟨e, he, rfl⟩ := List.mem_map.mp hr
  exact (listRegs_ne sp e (List.mem_of_mem_filter he)).1

/-! ### Pushing bytes (R66) -/

/-- Push bytes so that they lie from the new pointer upward. -/
def State.pushBytes (s : State) (sp : Stack) (bs : List Byte) : State :=
  let p := s.reg sp.reg - BitVec.ofNat 16 bs.length
  storeAll (s.setReg sp.reg p) (pushes p bs)

/-- The bytes of a register at its own width, big-endian. -/
def State.regBytes (s : State) (r : Reg) : List Byte :=
  match r with
  | .A | .B | .DP | .CC => [loByte (s.reg r)]
  | .D | .X | .Y | .U | .S | .PC => wordBytes (s.reg r)

/-- A push of bytes changes its pointer and the bus alone. -/
theorem State.pushBytes_eq (s : State) (sp : Stack) (bs : List Byte) :
    s.pushBytes sp bs =
      (s.setReg sp.reg (s.reg sp.reg - BitVec.ofNat 16 bs.length)).withBus (s.pushBytes sp bs).bus :=
  storeAll_eq_withBus _ _

@[simp] theorem State.reg_pushBytes_same (s : State) (sp : Stack) (bs : List Byte) :
    (s.pushBytes sp bs).reg sp.reg = s.reg sp.reg - BitVec.ofNat 16 bs.length := by
  rw [State.pushBytes_eq]
  cases sp <;> rfl

theorem State.reg_pushBytes_other (s : State) {sp : Stack} (bs : List Byte) {r : Reg} (h : r ≠ sp.reg) :
    (s.pushBytes sp bs).reg r = s.reg r := by
  rw [State.pushBytes_eq]
  cases sp with
  | S =>
    cases r with
    | S => exact absurd rfl h
    | _ => rfl
  | U =>
    cases r with
    | U => exact absurd rfl h
    | _ => rfl

theorem State.regBytes_pushBytes (s : State) {sp : Stack} (bs : List Byte) {r : Reg} (h : r ≠ sp.reg) :
    (s.pushBytes sp bs).regBytes r = s.regBytes r := by
  unfold State.regBytes
  rw [s.reg_pushBytes_other bs h]

@[simp] theorem State.pushBytes_cc (s : State) (sp : Stack) (bs : List Byte) : (s.pushBytes sp bs).cc = s.cc := by
  rw [State.pushBytes_eq]
  cases sp <;> rfl

@[simp] theorem State.pushBytes_nil (s : State) (sp : Stack) : s.pushBytes sp [] = s := by
  cases sp <;> simp [State.pushBytes, pushes, storeAll, Stack.reg]

/-- A stack pointer is no part of what a store looks at. -/
theorem storeAll_setReg (s : State) (sp : Stack) (v : Word) (ps : List (Word × Byte)) :
    storeAll (s.setReg sp.reg v) ps = (storeAll s ps).setReg sp.reg v := by
  induction ps generalizing s with
  | nil => rfl
  | cons p ps ih =>
    have store : (s.setReg sp.reg v).poke p.1 p.2 = (s.poke p.1 p.2).setReg sp.reg v := by cases sp <;> rfl
    exact (congrArg (storeAll · ps) store).trans (ih _)

/-- The second write of a stack pointer wins. -/
theorem State.setReg_setReg (s : State) (sp : Stack) (v w : Word) :
    (s.setReg sp.reg v).setReg sp.reg w = s.setReg sp.reg w := by
  cases sp <;> rfl

/-- The bytes of a longer push: the upper ones are stored first. -/
theorem pushes_append (base : Word) (xs ys : List Byte) :
    pushes base (xs ++ ys) = pushes (base + BitVec.ofNat 16 xs.length) ys ++ pushes base xs := by
  simp [pushes, List.zipIdx_append, List.zipIdx_eq_map_add (i := xs.length), BitVec.ofNat_add, BitVec.add_assoc,
    Function.comp_def]

/-- A push after a push: its bytes lie below. -/
theorem State.pushBytes_pushBytes (s : State) (sp : Stack) (xs ys : List Byte) :
    (s.pushBytes sp ys).pushBytes sp xs = s.pushBytes sp (xs ++ ys) := by
  have low : s.reg sp.reg - BitVec.ofNat 16 ys.length - BitVec.ofNat 16 xs.length =
      s.reg sp.reg - BitVec.ofNat 16 (xs ++ ys).length := by
    rw [List.length_append, BitVec.ofNat_add]
    bv_omega
  have high : s.reg sp.reg - BitVec.ofNat 16 (xs ++ ys).length + BitVec.ofNat 16 xs.length =
      s.reg sp.reg - BitVec.ofNat 16 ys.length := by
    rw [← low]
    bv_omega
  rw [State.pushBytes, State.reg_pushBytes_same, low, State.pushBytes, State.pushBytes, pushes_append, high,
    ← storeAll_setReg, State.setReg_setReg]
  exact (List.foldl_append ..).symm

theorem State.push8_eq_pushBytes (s : State) (sp : Stack) (v : Byte) : s.push8 sp v = s.pushBytes sp [v] := by
  simp [State.push8, State.pushBytes, pushes, storeAll]

theorem State.pushReg_eq_pushBytes (s : State) (sp : Stack) (r : Reg) :
    s.pushReg sp r = s.pushBytes sp (s.regBytes r) := by
  cases r with
  | A | B | DP | CC => exact s.push8_eq_pushBytes sp _
  | D | X | Y | U | S | PC => exact s.push16_eq_storeAll sp _

/-- Pushing registers in turn, the last first, is one push of their bytes. -/
theorem State.foldr_pushReg (s : State) (sp : Stack) (rs : List Reg) (h : ∀ r ∈ rs, r ≠ sp.reg) :
    rs.foldr (fun r s => s.pushReg sp r) s = s.pushBytes sp (rs.flatMap s.regBytes) := by
  induction rs with
  | nil => simp
  | cons r rs ih =>
    rw [List.foldr_cons, ih fun q hq => h q (List.mem_cons_of_mem r hq), State.pushReg_eq_pushBytes,
      s.regBytes_pushBytes _ (h r List.mem_cons_self), State.pushBytes_pushBytes, List.flatMap_cons]

/-- The bytes of a register list are those of its selected registers in order. -/
theorem listBytes_eq_flatMap (sp : Stack) (pb : Byte) (s : State) :
    listBytes sp pb s = (selectedRegs sp pb).flatMap s.regBytes := by
  have select (l : List (Nat × Reg)) : ((l.filter fun e => pb.getLsbD e.1).map (·.2)).flatMap s.regBytes =
      l.flatMap fun e => if pb.getLsbD e.1 then s.regBytes e.2 else [] := by
    induction l with
    | nil => rfl
    | cons e l ih => by_cases h : pb.getLsbD e.1 <;> simp [h, ← ih]
  rw [selectedRegs, select]
  cases sp <;> simp [listBytes, listRegs, Stack.other, Stack.reg, State.regBytes]

/-- `PushList` is one push of the list's bytes (R474). -/
theorem State.pushList_eq_pushBytes (s : State) (sp : Stack) (pb : Byte) :
    s.pushList sp pb = s.pushBytes sp (listBytes sp pb s) := by
  rw [State.pushList, List.foldl_reverse, s.foldr_pushReg sp _ fun _ => selectedRegs_ne, listBytes_eq_flatMap]

/-- A push at the end of a computation stores its bytes and transfers no control. -/
theorem State.Computes.pushesBytes {s u : State} (h : s.Computes u) (hw : Memory.wf s.mem = true) (sp : Stack)
    (bs : List Byte) :
    Stores (pushes ((u.pushBytes sp bs).reg sp.reg) bs) [] [] s (u.pushBytes sp bs) ∧ Straight s (u.pushBytes sp bs) := by
  have moved : s.Computes (u.setReg sp.reg (u.reg sp.reg - BitVec.ofNat 16 bs.length)) :=
    h.trans (by cases sp <;> rfl)
  refine ⟨?_, ?_⟩
  · rw [State.reg_pushBytes_same]
    exact moved.storesAll hw _
  · rw [State.pushBytes_eq]
    exact moved.straight

/-- A push moves no register but its pointer. -/
theorem State.sameRegs_pushBytes (s : State) (sp : Stack) (bs : List Byte) : SameRegs [sp.reg] s (s.pushBytes sp bs) :=
  fun _ _ hn => s.reg_pushBytes_other bs (List.ne_of_not_mem_cons hn)

/-- Settles O48: the list is pushed as its bytes. -/
theorem pushRegisterList : Obligations.PushRegisterList := by
  intro p hp pb s hw
  have meaning : exec (p.1 pb) s = .next (s.pushBytes p.2 (listBytes p.2 pb s)) := by
    rw [← State.pushList_eq_pushBytes]
    fin_cases hp <;> rfl
  obtain ⟨stores, straight⟩ := State.Computes.pushesBytes (u := s) rfl hw p.2 (listBytes p.2 pb s)
  exact ⟨_, meaning, s.reg_pushBytes_same _ _, stores, s.pushBytes_cc _ _, s.sameRegs_pushBytes _ _, straight⟩

/-! ### The entire frame (R610), CWAI (R485) -/

/-- The descriptor of an entire frame sets bit 7 of CC (R26, R610). -/
theorem apply_setE (cc : Byte) : FlagUpdate.apply { e := true } cc = cc ||| 0x80 := by
  refine cc_ext fun f => ?_
  rw [FlagUpdate.flagOf_apply]
  cases f <;> simp [FlagUpdate.value, FlagUpdate.get, flagOf, Flag.bit]

/-- An entire frame is one push of its bytes, after E is set (R610). -/
theorem State.pushFrame_entire (s : State) :
    s.pushFrame .entire = State.pushBytes { s with cc := s.cc ||| 0x80 } .S (frameBytes .entire s) := by
  have set : s.flags { e := true } = { s with cc := s.cc ||| 0x80 } :=
    congrArg (fun cc => { s with cc := cc }) (apply_setE s.cc)
  rw [State.pushFrame, set]
  exact State.pushList_eq_pushBytes _ _ _

/-- CWAI is a write of CC, a push of the frame or of nothing, and the run state (R485). -/
theorem exec_cwai (m : Byte) (s : State) :
    exec (.cwai m) s = .next (State.pushBytes
      { s with cc := if s.cfg.cwaiPrestack then (s.cc &&& m) ||| 0x80 else s.cc &&& m } .S
      (if s.cfg.cwaiPrestack then frameBytes .entire { s with cc := s.cc &&& m } else [])).wait := by
  show execCwai m s = _
  cases h : s.cfg.cwaiPrestack with
  | true => simp [execCwai, h, State.pushFrame_entire]
  | false => simp [execCwai, h]

/-- Settles O52: the push after the write of CC stores what it would store before it. -/
theorem clearAndWait : Obligations.ClearAndWait := by
  intro m s hw
  refine ⟨_, exec_cwai m s, ?_⟩
  intro masked bs
  generalize (if s.cfg.cwaiPrestack then (s.cc &&& m) ||| 0x80 else s.cc &&& m) = cc
  have computes : s.Computes { s with cc := cc } := rfl
  obtain ⟨stores, pc, ntck, -, rest⟩ := computes.pushesBytes hw .S bs
  exact ⟨State.pushBytes_cc _ _ _, State.reg_pushBytes_same _ .S _, stores,
    fun r hr hn => (State.sameRegs_pushBytes _ .S bs r hr hn).trans (sameRegs_cc s cc r hr List.not_mem_nil), rfl, pc,
    ntck, rfl, rest⟩

/-! ### Pulling registers (R66, R471, R473) -/

/-- The width of a register in bytes (R20). -/
def regWidth : Reg → Nat
  | .A | .B | .DP | .CC => 1
  | .D | .X | .Y | .U | .S | .PC => 2

/-- What a pull of a register at an address reads, as the register reads it afterwards. -/
def State.regAt (s : State) (r : Reg) (addr : Word) : Word :=
  match r with
  | .A | .B | .DP | .CC => zext16 (s.peek addr)
  | .D | .X | .Y | .U | .S | .PC => wordAt s addr

/-- A pull moves the pointer, then writes the register. -/
theorem State.pullReg_eq (s : State) (sp : Stack) (r : Reg) :
    s.pullReg sp r =
      (s.setReg sp.reg (s.reg sp.reg + BitVec.ofNat 16 (regWidth r))).setReg r (s.regAt r (s.reg sp.reg)) := by
  cases r with
  | A | B | DP | CC => rfl
  | D | X | Y | U | S | PC =>
    rw [State.pullReg, s.pull16_eq]
    rfl

/-- The value read fits the register. -/
theorem State.narrow_regAt (s : State) (r : Reg) (addr : Word) : narrow r (s.regAt r addr) = s.regAt r addr := by
  cases r with
  | A | B | DP | CC => exact (zext16_loByte _).symm.trans (congrArg zext16 (loByte_zext16 _))
  | D | X | Y | U | S | PC => rfl

theorem State.reg_pullReg_same (s : State) (sp : Stack) (r : Reg) :
    (s.pullReg sp r).reg r = s.regAt r (s.reg sp.reg) := by
  rw [State.pullReg_eq, State.reg_setReg_same, State.narrow_regAt]

/-- A write of a register other than D is read by its own name alone (R23). -/
theorem State.reg_setReg_ne (s : State) {r q : Reg} (v : Word) (hr : r ≠ .D) (hq : q ≠ .D) (h : q ≠ r) :
    (s.setReg r v).reg q = s.reg q := by
  refine s.reg_setReg_other v hq ?_
  cases r with
  | D => exact absurd rfl hr
  | _ => simpa [parts] using h

theorem Stack.reg_ne_D (sp : Stack) : sp.reg ≠ .D := by cases sp <;> decide

theorem State.reg_pullReg_other (s : State) {sp : Stack} {r q : Reg} (hr : r ≠ .D) (hq : q ≠ .D) (h : q ≠ r)
    (hp : q ≠ sp.reg) : (s.pullReg sp r).reg q = s.reg q := by
  rw [State.pullReg_eq, State.reg_setReg_ne _ _ hr hq h, State.reg_setReg_ne _ _ sp.reg_ne_D hq hp]

theorem State.reg_pullReg_pointer (s : State) {sp : Stack} {r : Reg} (hr : r ≠ .D) (hp : r ≠ sp.reg) :
    (s.pullReg sp r).reg sp.reg = s.reg sp.reg + BitVec.ofNat 16 (regWidth r) := by
  rw [State.pullReg_eq, State.reg_setReg_ne _ _ hr sp.reg_ne_D hp.symm, State.reg_setReg_same]
  cases sp <;> rfl

/-- Registers, and the events of a write of PC, change at most. -/
def State.Pulled (s t : State) : Prop :=
  t = { s with
    a := t.a, b := t.b, x := t.x, y := t.y, u := t.u, s := t.s, pc := t.pc, dp := t.dp, cc := t.cc, events := t.events }

theorem State.Pulled.trans {s t v : State} (h : s.Pulled t) (k : t.Pulled v) : s.Pulled v := by
  unfold State.Pulled at h k ⊢
  rw [k, h]

theorem State.Pulled.pullReg (s : State) (sp : Stack) (r : Reg) : s.Pulled (s.pullReg sp r) := by
  cases sp <;> cases r <;> rfl

theorem State.Pulled.regAt {s t : State} (h : s.Pulled t) (r : Reg) (addr : Word) : t.regAt r addr = s.regAt r addr := by
  rw [h]
  rfl

/-- One entry of a register list: a pull where its bit is set. -/
def State.pullEntry (sp : Stack) (pb : Byte) (s : State) (e : Nat × Reg) : State :=
  if pb.getLsbD e.1 then s.pullReg sp e.2 else s

/-- The pulls of a list go through its entries, bit 0 first. -/
theorem State.foldl_pullReg (s : State) (sp : Stack) (pb : Byte) :
    (selectedRegs sp pb).foldl (fun s r => s.pullReg sp r) s = (listRegs sp).foldl (State.pullEntry sp pb) s := by
  rw [selectedRegs, List.foldl_map, List.foldl_filter]
  rfl

theorem listOffset_succ (pb : Byte) (k : Nat) :
    listOffset pb (k + 1) = listOffset pb k + if pb.getLsbD k then (if k < 4 then 1 else 2) else 0 := by
  simp [listOffset, List.range_succ]

/-- Each register of a list has one bit, and each bit one register. -/
theorem listRegs_inj (sp : Stack) : ∀ e ∈ listRegs sp, ∀ f ∈ listRegs sp, e.1 = f.1 ↔ e.2 = f.2 := by
  cases sp <;> decide

/-- The registers of one byte have the bits below 4 (R102). -/
theorem regWidth_listRegs (sp : Stack) : ∀ e ∈ listRegs sp, regWidth e.2 = if e.1 < 4 then 1 else 2 := by
  cases sp <;> decide

/-- What the entries of a list with bits below `k` leave: the pointer past their bytes, and each selected register of theirs as
its place reads. -/
structure PulledTo (sp : Stack) (pb : Byte) (k : Nat) (s t : State) : Prop where
  pointer : t.reg sp.reg = s.reg sp.reg + BitVec.ofNat 16 (listOffset pb k)
  regs : ∀ e ∈ listRegs sp, t.reg e.2 =
    if e.1 < k ∧ pb.getLsbD e.1 then s.regAt e.2 (s.reg sp.reg + BitVec.ofNat 16 (listOffset pb e.1)) else s.reg e.2
  pulled : s.Pulled t

theorem PulledTo.zero (sp : Stack) (pb : Byte) (s : State) : PulledTo sp pb 0 s s where
  pointer := by simp [listOffset]
  regs := by simp
  pulled := rfl

/-- The next entry writes its own register from where the pointer stands, and no other. -/
theorem PulledTo.entry {sp : Stack} {pb : Byte} {s t : State} {e : Nat × Reg} (he : e ∈ listRegs sp)
    (h : PulledTo sp pb e.1 s t) : PulledTo sp pb (e.1 + 1) s (t.pullEntry sp pb e) := by
  obtain ⟨pointer, regs, pulled⟩ := h
  have earlier {f : Nat × Reg} (hf : f ∈ listRegs sp) (ne : f.2 ≠ e.2) : f.1 < e.1 + 1 ↔ f.1 < e.1 := by
    have := mt (listRegs_inj sp f hf e he).mp ne
    omega
  unfold State.pullEntry
  cases bit : pb.getLsbD e.1 with
  | false =>
    refine ⟨by simpa [listOffset_succ, bit] using pointer, fun f hf => ?_, pulled⟩
    rw [if_neg Bool.false_ne_true, regs f hf]
    by_cases same : f.2 = e.2
    · simp [(listRegs_inj sp f hf e he).mpr same, bit]
    · simp only [earlier hf same]
  | true =>
    obtain ⟨notPointer, notD⟩ := listRegs_ne sp e he
    rw [if_pos rfl]
    refine ⟨?_, fun f hf => ?_, pulled.trans (.pullReg t sp e.2)⟩
    · rw [t.reg_pullReg_pointer notD notPointer, pointer, listOffset_succ, bit, if_pos rfl, ← regWidth_listRegs sp e he,
        BitVec.ofNat_add, BitVec.add_assoc]
    · by_cases same : f.2 = e.2
      · have first := (listRegs_inj sp f hf e he).mpr same
        rw [same, t.reg_pullReg_same, pointer, pulled.regAt, first, if_pos ⟨Nat.lt_succ_self _, bit⟩]
      · obtain ⟨otherPointer, otherD⟩ := listRegs_ne sp f hf
        rw [t.reg_pullReg_other notD otherD same otherPointer, regs f hf]
        simp only [earlier hf same]

theorem PulledTo.foldl {sp : Stack} {pb : Byte} {s : State} (l : List (Nat × Reg)) (sub : l ⊆ listRegs sp) (k : Nat)
    (bits : l.map (·.1) = List.range' k l.length) {t : State} (h : PulledTo sp pb k s t) :
    PulledTo sp pb (k + l.length) s (l.foldl (State.pullEntry sp pb) t) := by
  induction l generalizing k t with
  | nil => exact h
  | cons e l ih =>
    obtain ⟨rfl, later⟩ := List.cons.inj bits
    rw [List.length_cons, Nat.add_comm l.length, ← Nat.add_assoc]
    exact ih (List.subset_of_cons_subset sub) _ later (h.entry (sub List.mem_cons_self))

/-- What all eight entries leave. -/
theorem PulledTo.selected {sp : Stack} {pb : Byte} {s t : State} (h : PulledTo sp pb 8 s t) :
    ∀ e ∈ listRegs sp, t.reg e.2 =
      if pb.getLsbD e.1 then s.regAt e.2 (s.reg sp.reg + BitVec.ofNat 16 (listOffset pb e.1)) else s.reg e.2 := by
  intro e he
  have eight : e.1 < 8 := by
    revert e
    cases sp <;> decide
  simpa only [eight, true_and] using h.regs e he

/-- `PullList` (R474): all eight entries, and `ntck` after a pull of PC. -/
theorem State.pullList_eq (s : State) (sp : Stack) (pb : Byte) : ∃ t, PulledTo sp pb 8 s t ∧
    s.pullList sp pb = { t with ntck := if pb.getLsbD 7 then true else s.ntck } := by
  have all := (PulledTo.zero sp pb s).foldl (listRegs sp) (List.Subset.refl _) 0 rfl
  refine ⟨_, all, ?_⟩
  have ntck := congrArg State.ntck all.pulled
  rw [State.pullList, State.foldl_pullReg]
  cases pb.getLsbD 7 with
  | true => rfl
  | false => exact congrArg (fun b => { (listRegs sp).foldl (State.pullEntry sp pb) s with ntck := b }) ntck

/-- A selection between bytes, read as words. -/
theorem eq_ite_of_zext16 {c : Prop} [Decidable c] {x y z : Byte} (h : zext16 x = if c then zext16 y else zext16 z) :
    x = if c then y else z := by
  simpa [apply_ite] using congrArg loByte h

/-- Settles O49: each register is what the entry of its bit leaves. -/
theorem pullRegisterList : Obligations.PullRegisterList := by
  intro p hp pb s
  have meaning : exec (p.1 pb) s = .next (s.pullList p.2 pb) := by fin_cases hp <;> rfl
  obtain ⟨t, h, list⟩ := s.pullList_eq p.2 pb
  have reg (r : Reg) : ({ t with ntck := if pb.getLsbD 7 then true else s.ntck } : State).reg r = t.reg r := by
    cases r <;> rfl
  have other (addr : Word) : s.regAt p.2.other.reg addr = wordAt s addr := by cases p.2 <;> rfl
  have values := h.selected
  simp only [listRegs, List.forall_mem_cons, other] at values
  obtain ⟨cc, a, b, dp, x, y, sp, pc, -⟩ := values
  refine ⟨_, meaning.trans (congrArg _ list), eq_ite_of_zext16 cc, eq_ite_of_zext16 a, eq_ite_of_zext16 b,
    eq_ite_of_zext16 dp, x, y, (reg _).trans sp, pc, rfl, (reg _).trans h.pointer, ?_, ?_⟩
  · rw [h.pulled]
    exact ⟨fun _ => rfl, rfl, rfl⟩
  · rw [h.pulled]
    exact ⟨rfl, rfl, rfl, rfl, rfl, rfl, rfl, rfl⟩

end Sys2Proof.Machine
end

section
/-! PROOF. The operands of the encoder (R510 to R513, R521): the direct page's choice, the size of a constant offset and the
address the engine forms from it, PC-relative branches and where they lead. -/

namespace Sys2Proof.Machine

open Sys2Proof.Claims

/-! ### Evaluation in order, and records (R503) -/

@[simp] theorem ok_bind {α β : Type} (v : α) (f : α → Except AsmError β) : (Except.ok v >>= f) = f v := rfl

@[simp] theorem error_bind {α β : Type} (e : AsmError) (f : α → Except AsmError β) :
    (Except.error e >>= f) = .error e := rfl

/-- An operand whose format has a record is that record's bytes and its own (R503). -/
theorem finish_of_form {env : AsmEnv} {m : OpName} {o : Operand} {bs : List Byte} (h : env.table.form m o.format = some bs) :
    finish env m o = .ok (bs ++ o.bytes) := by
  rw [finish, h]

theorem hasFormat_of_form {env : AsmEnv} {m : OpName} {f : Format} {bs : List Byte} (h : env.table.form m f = some bs) :
    hasFormat env m f = true := by
  rw [hasFormat, h]
  rfl

theorem hasFormat_of_form_none {env : AsmEnv} {m : OpName} {f : Format} (h : env.table.form m f = none) :
    hasFormat env m f = false := by
  rw [hasFormat, h]
  rfl

/-! ### Direct or extended (R512) -/

/-- A text that does not begin with `<` or `>` forces no size. -/
theorem forcing_of_head {t : Text} (h8 : t.head? ≠ some '<') (h16 : t.head? ≠ some '>') : forcing t = (false, false, t) := by
  unfold forcing
  split
  · exact absurd rfl h8
  · exact absurd rfl h16
  · rfl

/-- What an unforced address is encoded as, by its value. -/
theorem chooseDirect_unforced (dp : DirectPage) (v : Int) : chooseDirect dp false false (some v) =
    if dp.inUse = true ∧ hiByte (BitVec.ofInt 16 v) = dp.value then .dir (loByte (BitVec.ofInt 16 v))
    else .ext (BitVec.ofInt 16 v) := by
  simp [chooseDirect, wordOfInt]

/-- An unforced address is the operand chosen, where that has a record. -/
theorem encodeAddress_unforced {env : AsmEnv} {m : OpName} {text : Text} {v : Int} {bs : List Byte}
    (h8 : text.head? ≠ some '<') (h16 : text.head? ≠ some '>') (value : evalExpr env false text = .ok (some v))
    (form : env.table.form m (chooseDirect env.directPage false false (some v)).format = some bs) :
    encodeAddress env m text = .ok (bs ++ (chooseDirect env.directPage false false (some v)).bytes) := by
  simp [encodeAddress, forcing_of_head h8 h16, value, hasFormat_of_form form, finish_of_form form]

/-- Settles O57: unforced, the operand chosen has a record either way. -/
theorem directPageChoice : Obligations.DirectPageChoice := by
  intro env m d e text v dir ext h8 h16 value
  have encoded := fun bs => encodeAddress_unforced (m := m) (bs := bs) h8 h16 value
  rw [chooseDirect_unforced] at encoded
  split_ifs at encoded ⊢
  · exact encoded d dir
  · exact encoded e ext

/-! ### Constant offsets (R521, R156) -/

/-- Sign extension of a value that the narrow width holds. -/
theorem signExtend_ofInt {w : Nat} (hw : 0 < w) {n : Int} (lo : -2 ^ (w - 1) ≤ n) (hi : n < 2 ^ (w - 1)) (v : Nat) :
    (BitVec.ofInt w n).signExtend v = BitVec.ofInt v n :=
  congrArg (BitVec.ofInt v) (BitVec.toInt_ofInt_eq_self hw lo hi)

/-- What an unforced constant offset is encoded as, by its value. -/
theorem chooseOffset_eq (r : IdxReg) (ind : Bool) (n : Int) : chooseOffset r ind false false (some n) =
    if ind = false ∧ -16 ≤ n ∧ n ≤ 15 then .off5 r (BitVec.ofInt 5 n)
    else if -128 ≤ n ∧ n ≤ 127 then .mode r ind (.off8 (byteOfInt n)) else .mode r ind (.off16 (wordOfInt n)) := by
  simp [chooseOffset]

/-- Settles O58: each of the three sizes is chosen only where sign extension gives the offset back. -/
theorem offsetSizeAndMeaning : Obligations.OffsetSizeAndMeaning := by
  refine fun r ind n => ⟨?_, fun s => ?_⟩
  · rw [chooseOffset_eq]
    split_ifs <;> rfl
  · rw [chooseOffset_eq]
    split_ifs with small byte
    · have offset : sext5 (BitVec.ofInt 5 n) = BitVec.ofInt 16 n := signExtend_ofInt (by decide) small.2.1 (by omega) 16
      rw [State.indx, offset]
    · have offset : sext16 (byteOfInt n) = BitVec.ofInt 16 n := signExtend_ofInt (by decide) byte.1 (by omega) 16
      rw [s.indx_mode false rfl, offset]
      rfl
    · exact s.indx_mode false rfl

/-! ### PC-relative branches (R513) -/

/-- A record begins with its opcode byte, after the prefix if there is one. -/
theorem OpcodeTable.length_form_pos {table : OpcodeTable} {m : OpName} {f : Format} {bs : List Byte}
    (h : table.form m f = some bs) : 0 < bs.length := by
  cases table with
  | standard =>
    cases m with
    | own t => cases h
    | core m =>
      obtain ⟨r, -, rfl⟩ := Option.map_eq_some_iff.mp h
      simp
  | custom es =>
    obtain ⟨r, -, rfl⟩ := Option.map_eq_some_iff.mp h
    simp

/-- The prefix is all of a record but the opcode byte. -/
theorem prefixLen_of_form {env : AsmEnv} {m : OpName} {f : Format} {bs : List Byte} (h : env.table.form m f = some bs) :
    prefixLen env m f + 1 = bs.length := by
  have pos := OpcodeTable.length_form_pos h
  rw [prefixLen, h, Option.getD_some]
  omega

/-- The wrapping distance is the difference modulo 65536 read as a signed word (R513). -/
theorem sdiff_eq_toInt (a b : Int) : sdiff a b = (BitVec.ofInt 16 (a - b)).toInt := by
  rw [BitVec.toInt_ofInt, sdiff, Int.bmod_def]
  omega

theorem ofInt_sdiff (a b : Int) : BitVec.ofInt 16 (sdiff a b) = BitVec.ofInt 16 (a - b) := by
  rw [sdiff_eq_toInt, BitVec.ofInt_toInt]

/-- A table that gives a name no record of the classes that go before a branch (R503, log 34). -/
def BranchOnly (table : OpcodeTable) (m : OpName) : Prop :=
  table.form m .inh = none ∧ table.form m .rpair = none ∧ table.form m .rlist = none

section
variable {env : AsmEnv} {m : OpName} {bs : List Byte} {text : Text} {target : Option Int}

/-- A name with a branch record and none of the classes before it is encoded as a branch. -/
theorem encodeInstr_of_branchOnly {f : Format} (h : BranchOnly env.table m) (hf : f = .rel8 ∨ f = .rel16)
    (form : env.table.form m f = some bs) : encodeInstr env m text = encodeBranch env m text := by
  obtain ⟨inh, rpair, rlist⟩ := h
  have branch : (hasFormat env m .rel8 || hasFormat env m .rel16) = true := by
    obtain rfl | rfl := hf
    · simp [hasFormat_of_form form]
    · simp [hasFormat_of_form form]
  simp [encodeInstr, hasFormat_of_form_none inh, hasFormat_of_form_none rpair, hasFormat_of_form_none rlist, branch]

variable (value : evalExpr env false text = .ok target)
include value

/-- A short branch: the distance from the address after its displacement byte, held to the range from pass 2 (R513, D30). -/
theorem encodeBranch_short (form : env.table.form m .rel8 = some bs) :
    let disp := target.map fun v => sdiff v (env.programCounter.toNat + bs.length + 1)
    encodeBranch env m text = checkRange env (-128) 127 disp .branchOutOfRange >>= fun _ =>
      .ok (bs ++ [BitVec.ofInt 8 (disp.getD 0)]) := by
  have after : (env.programCounter.toNat + (prefixLen env m .rel8 + 2 : Nat) : Int) =
      env.programCounter.toNat + bs.length + 1 := by
    have len := prefixLen_of_form form
    omega
  have short := fun d => finish_of_form (o := .rel8 d) form
  simp only [encodeBranch, value, ok_bind, hasFormat_of_form form, after, if_true, short]
  rfl

/-- A long branch: the difference from the address after its displacement word, modulo 65536 (R513). -/
theorem encodeBranch_long (none8 : env.table.form m .rel8 = none) (form : env.table.form m .rel16 = some bs) :
    encodeBranch env m text = .ok (bs ++ wordBytes
      ((target.map fun v => BitVec.ofInt 16 (v - (env.programCounter.toNat + bs.length + 2))).getD 0)) := by
  have after : (env.programCounter.toNat + (prefixLen env m .rel16 + 3 : Nat) : Int) =
      env.programCounter.toNat + bs.length + 2 := by
    have len := prefixLen_of_form form
    omega
  have long := fun d => finish_of_form (o := .rel16 d) form
  simp only [encodeBranch, value, ok_bind, hasFormat_of_form_none none8, after, if_false, long, Bool.false_eq_true]
  cases target with
  | none => rfl
  | some v => exact congrArg (fun w => Except.ok (bs ++ wordBytes w)) (ofInt_sdiff v _)

end

/-- The short branches of the default table have no other record and no prefix (R110, R113). -/
theorem rel8_rows : ∀ r ∈ opcodeTable, r.format = .rel8 → r.page = .p0 ∧
    rowOf r.mnemonic .inh = none ∧ rowOf r.mnemonic .rpair = none ∧ rowOf r.mnemonic .rlist = none := by
  decide +kernel

/-- The long branches of the default table have no other record (R110, R115). -/
theorem rel16_rows : ∀ r ∈ opcodeTable, r.format = .rel16 → rowOf r.mnemonic .rel8 = none ∧
    rowOf r.mnemonic .inh = none ∧ rowOf r.mnemonic .rpair = none ∧ rowOf r.mnemonic .rlist = none := by
  decide +kernel

/-- A format of the default table's name has the bytes of its row, or none. -/
theorem form_standard (m : Mnemonic) (f : Format) :
    OpcodeTable.form .standard (.core m) f = (rowOf m f).map fun r => r.page.bytes ++ [r.opcode] := rfl

theorem branchOnly_standard {m : Mnemonic} (inh : rowOf m .inh = none) (rpair : rowOf m .rpair = none)
    (rlist : rowOf m .rlist = none) : BranchOnly .standard (.core m) := by
  simp only [BranchOnly, form_standard, inh, rpair, rlist, Option.map_none, and_self]

theorem rel8_standard {m : Mnemonic} {r : Row} (row : rowOf m .rel8 = some r) :
    BranchOnly .standard (.core m) ∧ OpcodeTable.form .standard (.core m) .rel8 = some [r.opcode] := by
  obtain ⟨rfl, format⟩ := rowOf_key row
  obtain ⟨page, inh, rpair, rlist⟩ := rel8_rows r (rowOf_mem row) format
  refine ⟨branchOnly_standard inh rpair rlist, ?_⟩
  rw [form_standard, row, Option.map_some, page]
  rfl

theorem rel16_standard {m : Mnemonic} {r : Row} (row : rowOf m .rel16 = some r) :
    BranchOnly .standard (.core m) ∧ OpcodeTable.form .standard (.core m) .rel8 = none ∧
      OpcodeTable.form .standard (.core m) .rel16 = some (r.page.bytes ++ [r.opcode]) := by
  obtain ⟨rfl, format⟩ := rowOf_key row
  obtain ⟨none8, inh, rpair, rlist⟩ := rel16_rows r (rowOf_mem row) format
  refine ⟨branchOnly_standard inh rpair rlist, ?_, ?_⟩
  · rw [form_standard, none8, Option.map_none]
  · rw [form_standard, row, Option.map_some]

/-- A branch within reach assembles from every pass, one out of reach in pass 1 alone. -/
theorem encodeInstr_short {env : AsmEnv} {m : OpName} {bs : List Byte} {text : Text} {v : Int}
    (only : BranchOnly env.table m) (form : env.table.form m .rel8 = some bs)
    (value : evalExpr env false text = .ok (some v)) :
    let disp := sdiff v (env.programCounter.toNat + bs.length + 1)
    encodeInstr env m text =
      if -128 ≤ disp ∧ disp ≤ 127 ∨ env.passNo < 2 then .ok (bs ++ [BitVec.ofInt 8 disp])
      else .error .branchOutOfRange := by
  intro disp
  rw [encodeInstr_of_branchOnly only (.inl rfl) form, encodeBranch_short value form]
  show checkRange env (-128) 127 (some disp) _ >>= _ = _
  by_cases reach : -128 ≤ disp ∧ disp ≤ 127 ∨ env.passNo < 2
  · have passes : checkRange env (-128) 127 (some disp) .branchOutOfRange = .ok () := if_neg (by omega)
    rw [passes, if_pos reach, ok_bind]
    rfl
  · have fails : checkRange env (-128) 127 (some disp) .branchOutOfRange = .error .branchOutOfRange := if_pos (by omega)
    rw [fails, if_neg reach, error_bind]

/-- Settles O55: over every table the branch's own record is encoded, and the default table's branches have no other. -/
theorem branchEncoding : Obligations.BranchEncoding := by
  refine ⟨fun env m bs text only => ⟨fun form => ⟨fun v value => encodeInstr_short only form value, fun value => ?_⟩,
    fun none8 form => ⟨fun v value => ?_, fun value => ?_⟩⟩, fun m r => rel8_standard, fun m r => rel16_standard⟩
  · rw [encodeInstr_of_branchOnly only (.inl rfl) form, encodeBranch_short value form]
    rfl
  · rw [encodeInstr_of_branchOnly only (.inr rfl) form, encodeBranch_long value none8 form]
    rfl
  · have zero : wordBytes 0 = [0, 0] := by decide
    rw [encodeInstr_of_branchOnly only (.inr rfl) form, encodeBranch_long value none8 form]
    exact congrArg (Except.ok <| bs ++ ·) zero

/-! ### Where a short branch leads (R420, R460, R513) -/

/-- A name with a short record of the default table is BSR or one of the sixteen short branches. -/
theorem rel8_mnemonics : ∀ r ∈ opcodeTable, r.format = .rel8 →
    r.mnemonic = .bsr ∨ r.mnemonic ∈ shortBranches.map fun p => (p.1 0).mnemonic := by
  decide +kernel

/-- The instruction a short branch mnemonic and a displacement stand for. -/
structure ShortBranch (m : Mnemonic) (d : Byte) (i : Instr) : Prop where
  mnemonic : i.mnemonic = m
  operand : i.operand = .rel8 d
  wf : i.wf = true
  page : i.selectsPage = .p0

theorem shortBranch_of_mem : ∀ p ∈ shortBranches, ∀ d, ShortBranch (p.1 0).mnemonic d (p.1 d) := by
  intro p hp d
  fin_cases hp <;> exact ⟨rfl, rfl, rfl, rfl⟩

theorem exists_shortBranch {m : Mnemonic} {r : Row} (row : rowOf m .rel8 = some r) (d : Byte) :
    ∃ i, ShortBranch m d i ∧ (i = .bsr d ∨ ∃ p ∈ shortBranches, i = p.1 d) := by
  obtain ⟨rfl, format⟩ := rowOf_key row
  obtain bsr | branch := rel8_mnemonics r (rowOf_mem row) format
  · exact ⟨.bsr d, bsr ▸ ⟨rfl, rfl, rfl, rfl⟩, .inl rfl⟩
  · obtain ⟨p, hp, name⟩ := List.mem_map.mp branch
    exact ⟨p.1 d, name ▸ shortBranch_of_mem p hp d, .inr ⟨p, hp, rfl⟩⟩

/-- Its opcode and displacement decode to it. -/
theorem ShortBranch.decode {m : Mnemonic} {d : Byte} {i : Instr} {r : Row} (h : ShortBranch m d i)
    (row : rowOf m .rel8 = some r) : Sys2Proof.decode [r.opcode, d] = .instr i 2 := by
  obtain ⟨rfl, operand, wf, selects⟩ := h
  obtain ⟨-, format⟩ := rowOf_key row
  obtain ⟨page, -⟩ := rel8_rows r (rowOf_mem row) format
  have bytes : encode i = [r.opcode, d] := by
    have key : rowOf i.mnemonic i.operand.format = some r := by rw [operand]; exact row
    rw [encode_of_rowOf key, Row.emit, page, operand]
    rfl
  simpa [bytes] using decodeEncodeRoundTrip i [] wf selects

/-- BSR goes to PC plus its displacement, whatever memory its push reaches (R460). -/
theorem exec_bsr_pc (d : Byte) (s : State) : ∃ t, exec (.bsr d) s = .next t ∧ t.pc = s.pc + signed8 d :=
  ⟨(s.rel8 d).call, rfl, by
    rw [State.call, State.push16_eq_storeAll, storeAll_eq_withBus]
    rfl⟩

/-- A short branch whose condition holds goes to PC plus its displacement (R420). -/
theorem exec_shortBranch_pc {p : (Byte → Instr) × BranchCond} (hp : p ∈ shortBranches) (d : Byte) {s : State}
    (taken : p.2 (s.flag .C) (s.flag .Z) (s.flag .V) (s.flag .N) = true) :
    ∃ t, exec (p.1 d) s = .next t ∧ t.pc = s.pc + signed8 d := by
  obtain ⟨t, run, goes, -⟩ := conditionalBranches.1 p hp d s
  rw [if_pos taken] at goes
  obtain ⟨pc, -⟩ := goes
  exact ⟨t, run, pc⟩

/-- What a short branch of the default table assembles to from pass 2 on: its opcode and the distance, which is in range. -/
theorem bytes_of_encodeInstr_short {env : AsmEnv} {m : Mnemonic} {r : Row} {text : Text} {v : Int} {bs : List Byte}
    (standard : env.table = .standard) (pass : 2 ≤ env.passNo) (row : rowOf m .rel8 = some r)
    (value : evalExpr env false text = .ok (some v)) (encoded : encodeInstr env (.core m) text = .ok bs) :
    let disp := sdiff v (env.programCounter.toNat + 2)
    bs = [r.opcode, BitVec.ofInt 8 disp] ∧ -128 ≤ disp ∧ disp ≤ 127 := by
  obtain ⟨only, form⟩ := rel8_standard row
  rw [← standard] at only form
  have assembled := encodeInstr_short only form value
  have after : (env.programCounter.toNat + ([r.opcode].length : Nat) + 1 : Int) = env.programCounter.toNat + 2 := by
    rw [List.length_singleton]
    omega
  simp only [encoded, after] at assembled
  split_ifs at assembled with reach
  cases assembled
  exact ⟨rfl, by omega, by omega⟩

/-- A displacement in range, added to the address it is measured from, is the target modulo 65536 (R513). -/
theorem add_signed8_sdiff {v origin : Int} (lo : -128 ≤ sdiff v origin) (hi : sdiff v origin ≤ 127) :
    BitVec.ofInt 16 origin + signed8 (BitVec.ofInt 8 (sdiff v origin)) = BitVec.ofInt 16 v := by
  have extended : signed8 (BitVec.ofInt 8 (sdiff v origin)) = BitVec.ofInt 16 (sdiff v origin) :=
    signExtend_ofInt (by decide) lo (by omega) 16
  rw [extended, ofInt_sdiff, ← BitVec.ofInt_add, add_sub_cancel]

/-- Settles O56: the displacement encoded is the distance from PC after the two bytes. -/
theorem assembledBranchReachesTarget : Obligations.AssembledBranchReachesTarget := by
  intro env m text v bs standard pass short value encoded
  obtain ⟨form, found⟩ := Option.isSome_iff_exists.mp short
  rw [standard, form_standard] at found
  obtain ⟨r, row, -⟩ := Option.map_eq_some_iff.mp found
  obtain ⟨rfl, lo, hi⟩ := bytes_of_encodeInstr_short standard pass row value encoded
  have next : BitVec.ofInt 16 (env.programCounter.toNat + 2) = env.programCounter + 2 := by
    rw [BitVec.ofInt_add, BitVec.ofInt_natCast, BitVec.ofNat_toNat, BitVec.setWidth_eq]
    rfl
  have target := add_signed8_sdiff lo hi
  rw [next] at target
  obtain ⟨i, isBranch, kind⟩ := exists_shortBranch row (BitVec.ofInt 8 (sdiff v (env.programCounter.toNat + 2)))
  refine ⟨r, _, i, row, rfl, isBranch.decode row, isBranch.mnemonic, ?_⟩
  obtain rfl | ⟨p, hp, rfl⟩ := kind
  · exact .inl ⟨rfl, fun s pc => target ▸ pc ▸ exec_bsr_pc _ s⟩
  · exact .inr ⟨p, hp, rfl, fun s pc taken => target ▸ pc ▸ exec_shortBranch_pc hp _ taken⟩

end Sys2Proof.Machine
end

section
/-! PROOF. The lines of the encoder (R500 to R504, R540 to R543): what one `asmAdvanceOneLine` can do, that it leaves the engine
alone, and that an error ends the run. -/

namespace Sys2Proof.Machine

open Sys2Proof.Claims

/-! ### One command (R543) -/

/-- Outside a run, or after its end or an error, a call changes nothing. -/
theorem State.asmAdvanceOneLine_of_not_running {s : State} (h : s.asm.phase ≠ .running) : s.asmAdvanceOneLine = s :=
  if_pos h

theorem State.asmAdvance_of_not_running {s : State} (h : s.asm.phase ≠ .running) (n : Nat) : s.asmAdvance n = s := by
  induction n with
  | zero => rfl
  | succ n ih => rw [State.asmAdvance, State.asmAdvanceOneLine_of_not_running h, ih]

/-- A line in error sets the error fields of the encoder and nothing else (R504). -/
theorem State.asmAdvanceOneLine_of_error {s : State} {line : Text} {e : AsmError} (running : s.asm.phase = .running)
    (current : s.asm.source[s.asm.cursor]? = some line) (failed : s.asmLine line = .error e) :
    s.asmAdvanceOneLine = { s with asm := { s.asm with
      errorFlag := true
      phase := .error
      status := some ⟨.error, s.asm.passNo, s.asm.cursor + 1, some e, line⟩ } } := by
  simp only [State.asmAdvanceOneLine, running, current, failed, ne_eq, not_true_eq_false, if_false]

/-- The end of a pass is the encoder's own (R540, R542). -/
theorem State.endPass_eq (s : State) : s.endPass = { s with asm := s.endPass.asm } := by
  unfold State.endPass
  split <;> rfl

/-- Everything a call can do: the current line's effect if it has one, and a change of the encoder's own state. -/
theorem State.asmAdvanceOneLine_cases (s : State) :
    s.asmAdvanceOneLine = { s with asm := s.asmAdvanceOneLine.asm } ∨
      ∃ line t, s.asmLine line = .ok t ∧ s.asmAdvanceOneLine = { t with asm := s.asmAdvanceOneLine.asm } := by
  by_cases running : s.asm.phase = .running
  · cases current : s.asm.source[s.asm.cursor]? with
    | none =>
      have ended : s.asmAdvanceOneLine = s.endPass := by
        simp only [State.asmAdvanceOneLine, running, current, ne_eq, not_true_eq_false, if_false]
      exact .inl (ended ▸ s.endPass_eq)
    | some line =>
      cases result : s.asmLine line with
      | error e => exact .inl (by rw [State.asmAdvanceOneLine_of_error running current result])
      | ok t =>
        refine .inr ⟨line, t, result, ?_⟩
        simp only [State.asmAdvanceOneLine, running, current, result, ne_eq, not_true_eq_false, if_false]
        split
        · exact State.endPass_eq _
        · rfl
  · exact .inl (by rw [State.asmAdvanceOneLine_of_not_running running])

/-- Settles O59: the line in error sets the error fields alone, and its phase stops every later call. -/
theorem assemblyErrorStops : Obligations.AssemblyErrorStops := by
  intro s line e running current failed
  rw [State.asmAdvanceOneLine_of_error running current failed]
  exact ⟨rfl, rfl, rfl, rfl, rfl, rfl, rfl, State.asmAdvance_of_not_running (fun h => nomatch h)⟩

/-! ### What assembly leaves of the engine (R501, R504) -/

/-- From `s` to `t` at most the encoder, and what a store reaches, has changed. -/
structure State.Encodes (s t : State) : Prop where
  frame : t = { s with
    mem := t.mem, events := t.events, latches := t.latches, deviceState := t.deviceState, asm := t.asm }
  free : s.deviceFree = true → t.latches = s.latches ∧ t.deviceState = s.deviceState

theorem State.Encodes.setAsm (s : State) (a : AsmState) : s.Encodes { s with asm := a } := ⟨rfl, fun _ => ⟨rfl, rfl⟩⟩

theorem State.Encodes.refl (s : State) : s.Encodes s := setAsm s s.asm

theorem State.Encodes.deviceFree {s t : State} (h : s.Encodes t) : t.deviceFree = s.deviceFree := by
  rw [h.frame]
  rfl

theorem State.Encodes.trans {s t u : State} (h : s.Encodes t) (k : t.Encodes u) : s.Encodes u := by
  refine ⟨?_, fun hd => ?_⟩
  · rw [k.frame, h.frame]
  · obtain ⟨latches, devices⟩ := h.free hd
    obtain ⟨latches', devices'⟩ := k.free (h.deviceFree.trans hd)
    exact ⟨latches'.trans latches, devices'.trans devices⟩

/-- Stores reach the bus, and where no window belongs to a device memory and the events alone. -/
theorem State.Encodes.storeAll (s : State) (ps : List (Word × Byte)) : s.Encodes (Claims.storeAll s ps) :=
  ⟨by rw [storeAll_eq_withBus]; rfl, fun hd => by rw [storeAll_free hd]; exact ⟨rfl, rfl⟩⟩

/-- Bytes are deposited by `fill` (R501), which is a list of stores. -/
theorem State.Encodes.deposit (s : State) (bs : List Byte) : s.Encodes (s.deposit bs) := by
  have filled : (s.fill s.asm.programCounter bs).1 = Claims.storeAll s (s.laidFrom (s.mask s.asm.programCounter) bs) :=
    congrArg Prod.fst (s.fillFrom_eq _ (s.mask_lt _).le bs)
  have stored := State.Encodes.storeAll s (s.laidFrom (s.mask s.asm.programCounter) bs)
  rw [← filled] at stored
  exact stored.trans (setAsm _ _)

/-- An effect of the encoder that, where it is no error, leaves the engine alone. -/
def LeavesEngine (s : State) (r : Except AsmError State) : Prop := ∀ t, r = .ok t → s.Encodes t

theorem LeavesEngine.ok {s t : State} (h : s.Encodes t) : LeavesEngine s (.ok t) := by
  rintro _ ⟨⟩
  exact h

theorem LeavesEngine.error (s : State) (e : AsmError) : LeavesEngine s (.error e) :=
  fun _ h => nomatch h

/-- What is evaluated first matters by its value alone. -/
theorem LeavesEngine.eval {α : Type} {s : State} {x : Except AsmError α} {f : α → Except AsmError State}
    (h : ∀ v, LeavesEngine s (f v)) : LeavesEngine s (x >>= f) := by
  cases x with
  | error e => exact .error s e
  | ok v => exact h v

/-- One effect after another. -/
theorem LeavesEngine.andThen {s : State} {x : Except AsmError State} {f : State → Except AsmError State}
    (h : LeavesEngine s x) (k : ∀ t, LeavesEngine t (f t)) : LeavesEngine s (x >>= f) := by
  cases x with
  | error e => exact .error s e
  | ok t => exact fun u hu => (h t rfl).trans (k t u hu)

theorem LeavesEngine.bind (s : State) (name : Text) (v : Int) : LeavesEngine s (s.bind name v) :=
  .eval fun _ => .ok (.setAsm s _)

theorem LeavesEngine.bindHere (s : State) (label : Option Text) : LeavesEngine s (s.bindHere label) := by
  cases label with
  | none => exact .ok (.refl s)
  | some name => exact .bind s name _

theorem LeavesEngine.bindExpr (s : State) (name t : Text) : LeavesEngine s (s.bindExpr name t) :=
  .eval fun v => by
    cases v with
    | none => exact .ok (.refl s)
    | some v => exact .bind s name v

theorem LeavesEngine.bindConsts (s : State) (items : List Text) : LeavesEngine s (s.bindConsts items) := by
  induction items generalizing s with
  | nil => exact .ok (.refl s)
  | cons t ts ih =>
    unfold State.bindConsts
    split
    · exact (LeavesEngine.bindExpr s _ _).andThen ih
    · exact .error s _

theorem LeavesEngine.allocate (s : State) (size : Int) (names : List Text) : LeavesEngine s (s.allocate size names) := by
  induction names generalizing s with
  | nil => exact .ok (.refl s)
  | cons t ts ih =>
    exact (LeavesEngine.bind s _ _).andThen fun b u hu => (State.Encodes.setAsm b _).trans (ih _ u hu)

/-- Each directive deposits bytes, or binds names, or moves the encoder's own state (R545 to R554). -/
theorem LeavesEngine.directive (s : State) (d : Directive) (t : Text) : LeavesEngine s (s.directive d t) := by
  cases d with
  | db | dw => exact .eval fun bs => .ok (.deposit s bs)
  | org | ds | setdp => exact .eval fun _ => .ok (.setAsm s _)
  | equ => exact .error s _
  | stop => exact .ok (.setAsm s _)
  | const => exact .bindConsts s _
  | fill =>
    simp only [State.directive]
    split
    · refine .eval fun _ => .eval fun n => ?_
      split
      · exact .ok (.deposit s _)
      · exact .error s _
    · exact .error s _
  | var =>
    simp only [State.directive]
    split
    · exact .eval fun n => (LeavesEngine.allocate s n _).andThen fun b => .ok (.setAsm b _)
    · exact .error s _

/-- A line binds its label, then runs its directive or deposits its instruction (R502). -/
theorem LeavesEngine.asmLine (s : State) (line : Text) : LeavesEngine s (s.asmLine line) := by
  unfold State.asmLine State.asmParsed
  split
  · exact .bindHere s _
  · split
    · exact .bindExpr s _ _
    · exact .error s _
    · exact (LeavesEngine.bindHere s _).andThen fun b => .directive b _ _
    · split
      · exact .error s _
      · exact (LeavesEngine.bindHere s _).andThen fun b => .eval fun bs => .ok (.deposit b bs)

/-- Settles O60: the line's effect leaves the engine alone, and the rest of a call is the encoder's own. -/
theorem encoderLeavesEngine : Obligations.EncoderLeavesEngine := by
  intro s t
  have kept : s.Encodes s.asmAdvanceOneLine := by
    obtain own | ⟨line, u, assembled, own⟩ := s.asmAdvanceOneLine_cases
    · exact own ▸ .setAsm s _
    · exact own ▸ (LeavesEngine.asmLine s line u assembled).trans (.setAsm u _)
  exact ⟨kept.frame, kept.free⟩

end Sys2Proof.Machine
end

section
/-! PROOF. The latches, `Stop` and the machine after reset (R147, R604, R612, R640). -/

namespace Sys2Proof.Machine

open Sys2Proof.Claims

/-- Settles O18: the latch that is set reads true, the others as before, and no other field is named. -/
theorem latchAndStop : Obligations.LatchAndStop := by
  refine fun s => ⟨fun k => ⟨?_, fun j hj => ?_, rfl⟩, rfl⟩
  · exact (s.latches.get_set k k true).trans (if_pos rfl)
  · exact (s.latches.get_set k j true).trans (if_neg hj)

/-- Settles O11: with its reset latch set the check of the new machine is the service of RESET, which is then run. -/
theorem resetHasInv : Obligations.ResetHasInv := by
  refine ⟨⟨rfl, rfl, rfl⟩, ?_⟩
  rw [State.checkInterrupts_of_first (k := .reset) rfl fun j hj => absurd hj (Nat.not_lt_zero _)]
  rfl

end Sys2Proof.Machine
end

section
/-! PROOF. Completion (R600, R602): a well-formed instruction answers a next state, an ill-formed one the raise; so under the
policy that goes on every instruction, every program and every cycle answers a next state, and nothing is ever refused. -/

namespace Sys2Proof.Machine

open Sys2Proof.Claims

/-! ### Instructions -/

/-- A next state is answered. -/
def Completes (o : Outcome) : Prop := ∃ t, o = .next t

theorem Completes.next (t : State) : Completes (.next t) := ⟨t, rfl⟩

/-- An operand that resolves exactly when it is well formed lets the program run when it is. -/
theorem Completes.orIllegal {s : State} {resolved : Option State} {k : State → State} {wf : Bool}
    (hr : resolved.isSome = wf) (hw : wf = true) : Completes (s.orIllegal resolved k) := by
  obtain ⟨u, hu⟩ := Option.isSome_iff_exists.mp (hr.trans hw)
  exact ⟨k u, State.orIllegal_some hu⟩

theorem cmpx_completes {src : Src16} (s : State) (hw : src.wf = true) : Completes (execCmpx src s) := by
  unfold execCmpx
  split
  · exact .orIllegal (s.operand16r2_isSome src) hw
  · exact .orIllegal (s.operand16r2_isSome src) hw

/-- A pair of defined codes names two registers (R101, R165). -/
theorem pair_of_wf {p q : PairReg} (hw : (p.wf && q.wf) = true) : ∃ a b, p = .reg a ∧ q = .reg b := by
  rcases p with a | c <;> rcases q with b | d
  · exact ⟨a, b, rfl, rfl⟩
  all_goals cases hw

theorem tfr_completes {p q : PairReg} (s : State) (hw : (p.wf && q.wf) = true) : Completes (execTfr p q s) := by
  obtain ⟨a, b, rfl, rfl⟩ := pair_of_wf hw
  exact .next _

theorem exg_completes {p q : PairReg} (s : State) (hw : (p.wf && q.wf) = true) : Completes (execExg p q s) := by
  obtain ⟨a, b, rfl, rfl⟩ := pair_of_wf hw
  exact .next _

theorem exec_completes {i : Instr} (hw : i.wf = true) (s : State) : Completes (exec i s) := by
  cases i with
  | lda x | ldb x => exact .orIllegal (s.operand8r1_isSome x) hw
  | ldd x | ldx x | ldy x | ldu x | lds x => exact .orIllegal (s.operand16r1_isSome x) hw
  | adda x | addb x | adca x | adcb x | suba x | subb x | sbca x | sbcb x | cmpa x | cmpb x | anda x | andb x | ora x | orb x
  | eora x | eorb x | bita x | bitb x => exact .orIllegal (s.operand8r2_isSome x) hw
  | addd x | subd x | cmpd x | cmpy x | cmpu x | cmps x => exact .orIllegal (s.operand16r2_isSome x) hw
  | cmpx x => exact cmpx_completes s hw
  | sta m | stb m | std m | stx m | sty m | stu m | sts m | neg m | inc m | dec m | tst m | clr m | com m | lsr m | ror m
  | asr m | lsl m | rol m | jsr m | jmp m => exact .orIllegal (s.resolveEA_isSome m) hw
  | leax ix | leay ix | leas ix | leau ix => exact .orIllegal (s.indx_isSome ix) hw
  | tfr p q => exact tfr_completes s hw
  | exg p q => exact exg_completes s hw
  | _ => exact .next _

/-- Settles O8: an operand that is well formed resolves, and everything after it is a function of the state. -/
theorem wellFormedCompletes : Obligations.WellFormedCompletes := fun _ s hw => exec_completes hw s

/-! ### Under the policy that goes on (R600) -/

/-- Whether the driver goes on at an `IllegalOpcode` event. -/
abbrev State.Proceeds (s : State) : Prop := s.cfg.illegalPolicy = .proceed

theorem Keeps.proceeds {s t : State} (h : Keeps s t) (hp : s.Proceeds) : t.Proceeds :=
  (congrArg Config.illegalPolicy h.cfg).trans hp

theorem Completes.raise {s : State} (hp : s.Proceeds) : Completes s.raiseIllegal := ⟨_, State.raiseIllegal_proceed hp⟩

theorem Completes.exec (i : Instr) {s : State} (hp : s.Proceeds) : Completes (exec i s) := by
  cases hw : i.wf with
  | true => exact exec_completes hw s
  | false => exact exec_of_illFormed hw s ▸ Completes.raise hp

theorem Completes.runMeaning {s : State} (hp : s.Proceeds) (f : Format) (m : Mnemonic) : Completes (s.runMeaning f m) := by
  unfold State.runMeaning
  split
  · exact .raise hp
  · split
    · exact .raise hp
    · exact .exec _ ((Keeps.advance s _).proceeds hp)

/-- What a token leaves to go on in, or a next state that ends the program. -/
def TokenCompletes (r : State ⊕ Outcome) : Prop := ∀ o, r = .inr o → Completes o

theorem TokenCompletes.go (u : State) : TokenCompletes (.inl u) := fun _ h => (Sum.inl_ne_inr h).elim

theorem TokenCompletes.stop {o : Outcome} (h : Completes o) : TokenCompletes (.inr o) := fun _ e => Sum.inr.inj e ▸ h

theorem TokenCompletes.fetchIndx {s : State} (hp : s.Proceeds) : TokenCompletes s.fetchIndx := by
  unfold State.fetchIndx
  split
  · exact .stop (.raise hp)
  · split
    · exact .go _
    · exact .stop (.raise ((Keeps.advance s _).proceeds hp))

theorem TokenCompletes.fetchRgop {s : State} (hp : s.Proceeds) (x : Bool) : TokenCompletes (s.fetchRgop x) := by
  unfold State.fetchRgop State.fetch8
  simp only
  split
  · exact .go _
  · exact .stop (.raise ((Keeps.advance s 1).proceeds hp))

theorem TokenCompletes.recordPrefix {s : State} (hp : s.Proceeds) : TokenCompletes s.recordPrefix := by
  unfold State.recordPrefix
  split
  · exact .go _
  · exact .stop (.raise hp)

theorem TokenCompletes.runToken {s : State} (hp : s.Proceeds) (f : Format) (t : Token) :
    TokenCompletes (s.runToken f t) := by
  cases t with
  | indx => exact .fetchIndx hp
  | rgop x => exact .fetchRgop hp x
  | page => exact .recordPrefix hp
  | err => exact .stop (.raise hp)
  | meaning m => exact .stop (.runMeaning hp f m)
  | qt =>
    simp only [State.runToken]
    split
    · exact .stop (.next s)
    · exact .go s
  | qf =>
    simp only [State.runToken]
    split
    · exact .go s
    · exact .stop (.next s)
  | ftch8 d | ftch16 d => cases d <;> exact .go _
  | _ => exact .go _

/-- Whatever its tokens, a program ends (R143). -/
theorem Completes.runMicrocode (f : Format) (ts : List Token) {s : State} (hp : s.Proceeds) :
    Completes (s.runMicrocode f ts) := by
  induction ts generalizing s with
  | nil => exact .next s
  | cons t ts ih =>
    unfold State.runMicrocode
    split
    next u hu => exact ih (((TokenKeeps.runToken s f t).1 u hu).proceeds hp)
    next o ho => exact TokenCompletes.runToken hp f t o ho

theorem Completes.fetchExecute {s : State} (hp : s.Proceeds) : Completes s.fetchExecute := by
  unfold State.fetchExecute
  split
  · exact .exec _ ((Keeps.advance s _).proceeds hp)
  · exact .raise ((Keeps.advance s 1).proceeds hp)
  · exact .raise hp

theorem Completes.onNext {o : Outcome} {k : State → Outcome} (ho : Completes o) (hk : ∀ t, o = .next t → Completes (k t)) :
    Completes (onNext o k) := by
  obtain ⟨t, rfl⟩ := ho
  exact hk t rfl

/-! ### The loop of R140 -/

/-- The prefix records of a table are of page 0 with the program `page` (R103, R168). -/
def PlainPrefixes (es : List TableEntry) : Prop := ∀ e ∈ es, e.format = .pager → e.page = .p0 ∧ e.microcode = [.page]

theorem findEntry_mem {es : List TableEntry} {o : Byte} {p : Page} {e : TableEntry} (h : findEntry es o p = some e) :
    e ∈ es ∧ e.page = p := by
  have keys := List.find?_some h
  simp only [Bool.and_eq_true, beq_iff_eq] at keys
  exact ⟨List.mem_of_find?_eq_some h, keys.2⟩

/-- One turn of the loop that is not repeated: no record, a record that is no prefix, or a program that raised. -/
theorem Completes.fetchLoop_last {es : List TableEntry} {s : State} (hp : s.Proceeds) (n : Nat)
    (last : ∀ e, findEntry es (s.peek s.pc) s.page = some e → e.format ≠ .pager) :
    Completes (State.fetchLoop es (n + 1) s) := by
  have fetched : State.Proceeds { s.advance 1 with op := s.peek s.pc } := (Keeps.advance s 1).proceeds hp
  cases found : findEntry es (s.peek s.pc) s.page with
  | none =>
    simp only [State.fetchLoop, found]
    exact .raise fetched
  | some e =>
    rw [State.fetchLoop_of_plain n found (last e found)]
    exact .runMicrocode _ _ fetched

/-- On another page than 0 no record is a prefix. -/
theorem PlainPrefixes.ne_pager {es : List TableEntry} (hes : PlainPrefixes es) {o : Byte} {p : Page} (hp : p ≠ .p0)
    {e : TableEntry} (h : findEntry es o p = some e) : e.format ≠ .pager := by
  obtain ⟨mem, page⟩ := findEntry_mem h
  exact fun pager => hp (page ▸ (hes e mem pager).1)

/-- The page a prefix byte selects is not page 0 (R31). -/
theorem ofByte_ne_p0 {b : Byte} {p : Page} (h : Page.ofByte b = some p) : p ≠ .p0 := by
  unfold Page.ofByte at h
  split at h
  · cases h; decide
  · split at h
    · cases h; decide
    · cases h

/-- The program `page` selects another page than 0, or raises (R168; log 33). -/
theorem State.runMicrocode_page_next {s u : State} {f : Format} (h : s.runMicrocode f [.page] = .next u) :
    (∃ p, p ≠ .p0 ∧ u = s.recordPage p) ∨ Raised s u := by
  unfold State.runMicrocode State.runToken State.recordPrefix at h
  cases byte : Page.ofByte s.op with
  | some p =>
    rw [byte] at h
    cases h
    exact .inl ⟨p, ofByte_ne_p0 byte, rfl⟩
  | none =>
    rw [byte] at h
    exact .inr (State.raiseIllegal_raised h)

/-- After a prefix record the loop has one more turn, on a page with no prefix records (R140, R141). -/
theorem Completes.fetchLoop {es : List TableEntry} (hes : PlainPrefixes es) {s : State} (hp : s.Proceeds) (n : Nat) :
    Completes (State.fetchLoop es (n + 2) s) := by
  by_cases last : ∀ e, findEntry es (s.peek s.pc) s.page = some e → e.format ≠ .pager
  · exact .fetchLoop_last hp (n + 1) last
  · push Not at last
    obtain ⟨e, found, pager⟩ := last
    have fetched : State.Proceeds { s.advance 1 with op := s.peek s.pc } := (Keeps.advance s 1).proceeds hp
    have program := (hes e (findEntry_mem found).1 pager).2
    rw [State.fetchLoop]
    simp only [found]
    refine .onNext (.runMicrocode _ _ fetched) fun u hu => ?_
    split
    next again =>
      have same : u.illegalCount = s.illegalCount := again.2
      rw [program] at hu
      obtain ⟨p, other, rfl⟩ | raised := State.runMicrocode_page_next hu
      · exact .fetchLoop_last (s := State.recordPage _ p) fetched n fun _ => hes.ne_pager other
      · exact absurd (same.symm.trans raised.count) (Nat.succ_ne_self _).symm
    next => exact .next u

theorem Completes.cycle {s : State} (hp : s.Proceeds) (hes : PlainPrefixes s.cfg.opcodeTable.entries) :
    Completes s.cycle := by
  unfold State.cycle
  split
  next =>
    refine .onNext (.fetchExecute hp) fun t ht => .onNext ?_ fun u _ => .next _
    split
    · exact .next t
    · exact .fetchExecute ((Keeps.fetchExecute ht).proceeds hp)
  next es table =>
    rw [table] at hes
    exact .onNext (Completes.fetchLoop (s := s.beginCycle) (n := (s.cfg.devices.length + 1) * 2 ^ (178 + 8 * s.memSize))
      hes hp) fun u _ => .next _

theorem Completes.step {s : State} (hp : s.Proceeds) (hes : PlainPrefixes s.cfg.opcodeTable.entries) :
    Completes (step s) := by
  by_cases run : s.run = .running
  · rw [step_of_running run]
    exact .onNext (.cycle hp hes) fun t _ => .next _
  · rw [step_of_not_running run]
    exact .next _

/-! ### Refusals and faults, whatever the policy (R600, R602) -/

/-- Nothing is refused. -/
def Modelled (o : Outcome) : Prop := ∀ r, o ≠ .refused r

theorem Modelled.next (t : State) : Modelled (.next t) := nofun

theorem Modelled.raise (s : State) : Modelled s.raiseIllegal := by
  intro r h
  rcases s.raiseIllegal_cases with ⟨-, he⟩ | ⟨-, he⟩
  · cases he.symm.trans h
  · cases he.symm.trans h

theorem Answers.modelled {s : State} {o : Outcome} (h : Answers s o) : Modelled o := by
  cases h with
  | next t ho _ => exact ho ▸ .next t
  | raise u ho _ => exact ho ▸ .raise u

theorem Modelled.onNext {o : Outcome} {k : State → Outcome} (ho : Modelled o) (hk : ∀ t, Modelled (k t)) :
    Modelled (onNext o k) := by
  cases o with
  | next t => exact hk t
  | fault f => exact nofun
  | refused r => exact absurd rfl (ho r)

theorem Modelled.fetchLoop (es : List TableEntry) (n : Nat) (s : State) : Modelled (State.fetchLoop es n s) := by
  induction n generalizing s with
  | zero => exact nofun
  | succ n ih =>
    unfold State.fetchLoop
    simp only
    split
    · exact .raise _
    · refine .onNext (State.runMicrocode_answers _ _ _).modelled fun u => ?_
      split
      · exact ih u
      · exact .next u

theorem Modelled.cycle (s : State) : Modelled s.cycle := by
  unfold State.cycle
  split
  · refine .onNext (State.fetchExecute_answers _).modelled fun t => .onNext ?_ fun u => .next _
    split
    · exact .next t
    · exact t.fetchExecute_answers.modelled
  · exact .onNext (.fetchLoop _ _ _) fun u => .next _

theorem Modelled.step (s : State) : Modelled (step s) := by
  by_cases run : s.run = .running
  · rw [step_of_running run]
    exact .onNext (.cycle _) fun t => .next _
  · rw [step_of_not_running run]
    exact .next _

/-- The driver stops at the `n`-th event where its policy names a count that is reached (log 8, log 25). -/
theorem policyHalts_iff {p : IllegalPolicy} {n : Nat} : policyHalts p n = true ↔ ∃ k, p = .haltAfter k ∧ k ≤ n := by
  cases p with
  | proceed => simp [policyHalts]
  | haltAfter k => simp [policyHalts]

/-- An instruction faults only as the driver's policy says of the event it raises (R600). -/
theorem exec_fault {i : Instr} {s : State} {f : Fault} (h : exec i s = .fault f) :
    i.wf = false ∧ f = .illegalOpcode s.op s.page ∧ policyHalts s.cfg.illegalPolicy (s.illegalCount + 1) = true := by
  cases hw : i.wf with
  | true =>
    obtain ⟨t, ht⟩ := exec_completes hw s
    cases ht.symm.trans h
  | false =>
    rw [exec_of_illFormed hw] at h
    rcases s.raiseIllegal_cases with ⟨halts, he⟩ | ⟨-, he⟩
    · cases he.symm.trans h
      exact ⟨rfl, rfl, halts⟩
    · cases he.symm.trans h

/-- Settles O9: under the default policy every part of a step answers a next state; whatever the policy, an answer is a next
state or the raise, and a fault is the raise's. -/
theorem nothingFaults : Obligations.NothingFaults := by
  refine ⟨fun s hp hes => Completes.step hp hes, Modelled.step, fun i s => (exec_answers i s).modelled, fun i s f h => ?_⟩
  obtain ⟨illFormed, fault, halts⟩ := exec_fault h
  exact ⟨illFormed, fault, policyHalts_iff.mp halts⟩

end Sys2Proof.Machine
end

section
/-! PROOF. Taking an exception (R601, R606 to R614): an entry is one push of its frame, the masks and a jump through the
vector; the interrupts, RESET and the software interrupts are entries. -/

namespace Sys2Proof.Machine

open Sys2Proof.Claims

/-! ### The frame (R610) -/

/-- The descriptor of a small frame clears bit 7 of CC (R26, R610). -/
theorem apply_clearE (cc : Byte) : FlagUpdate.apply { e := false } cc = cc &&& 0x7F := by
  refine cc_ext fun f => ?_
  rw [FlagUpdate.flagOf_apply]
  cases f <;> simp [FlagUpdate.value, FlagUpdate.get, flagOf, Flag.bit]

/-- Pushing PC and then CC is one push of their bytes, CC lowest. -/
theorem State.pushReg_PC_CC (s : State) :
    (s.pushReg .S .PC).pushReg .S .CC = s.pushBytes .S (s.cc :: wordBytes s.pc) := by
  rw [State.pushReg_eq_pushBytes, State.pushReg_eq_pushBytes, s.regBytes_pushBytes _ (by decide), State.pushBytes_pushBytes]
  simp [State.regBytes]

/-- A state with another CC. -/
def State.withCc (s : State) (cc : Byte) : State := { s with cc := cc }

/-- CC is no part of what a push of bytes looks at. -/
theorem State.pushBytes_withCc (s : State) (cc : Byte) (sp : Stack) (bs : List Byte) :
    (s.withCc cc).pushBytes sp bs = (s.pushBytes sp bs).withCc cc := by
  have moved (v : Word) : (s.withCc cc).setReg sp.reg v = (s.setReg sp.reg v).withCc cc := by cases sp <;> rfl
  have pointer : (s.withCc cc).reg sp.reg = s.reg sp.reg := by cases sp <;> rfl
  rw [State.pushBytes, pointer, moved]
  exact List.foldl_hom (State.withCc · cc) fun _ _ => rfl

/-- A frame is one push of its bytes, and E in CC as it says (R610). -/
theorem State.pushFrame_eq (s : State) (f : Stacking) :
    s.pushFrame f = (s.pushBytes .S (frameBytes f s)).withCc (frameCc f s.cc) := by
  rw [← State.pushBytes_withCc]
  cases f with
  | none => exact (State.pushBytes_nil s .S).symm
  | pcAndCc =>
    have clear : s.flags { e := false } = s.withCc (s.cc &&& 0x7F) := congrArg s.withCc (apply_clearE s.cc)
    rw [State.pushFrame, clear, State.pushReg_PC_CC]
    rfl
  | entire => exact s.pushFrame_entire

/-- The bits of CC that an entry sets (R601, R610). -/
def maskBits (i f : Bool) : Byte := (if i then 0x10 else 0) ||| if f then 0x40 else 0

/-- The descriptor of an entry sets its masks (R26, R601). -/
theorem apply_masks (cc : Byte) (i f : Bool) :
    FlagUpdate.apply { i := if i then some true else none, f := if f then some true else none } cc =
      cc ||| maskBits i f := by
  refine cc_ext fun g => ?_
  rw [FlagUpdate.flagOf_apply]
  cases i <;> cases f <;> cases g <;> simp [FlagUpdate.value, FlagUpdate.get, flagOf, Flag.bit, maskBits]

/-! ### The entry (R610, R612, R614) -/

/-- The state in which an entry has stacked its frame and set its masks. -/
def State.stacked (s : State) (frame : Stacking) (masks : Byte) : State :=
  (s.pushBytes .S (frameBytes frame s)).withCc (frameCc frame s.cc ||| masks)

/-- An entry is one push of its frame, the masks, and a write of PC from the vector. -/
theorem State.enter_eq (s : State) (frame : Stacking) (i f : Bool) (vector : Word) :
    s.enter frame i f vector =
      (s.stacked frame (maskBits i f)).setPc (wordAt (s.stacked frame (maskBits i f)) vector) := by
  have masked : (s.pushFrame frame).setMasks i f = s.stacked frame (maskBits i f) := by
    rw [State.pushFrame_eq]
    exact congrArg (s.pushBytes .S (frameBytes frame s)).withCc (apply_masks _ i f)
  rw [State.enter, masked]
  rfl

/-- A stacked frame changes S, CC and the bus alone. -/
theorem State.stacked_eq (s : State) (frame : Stacking) (masks : Byte) :
    s.stacked frame masks =
      ((s.setReg .S (s.s - BitVec.ofNat 16 (frameBytes frame s).length)).withBus (s.stacked frame masks).bus).withCc
        (frameCc frame s.cc ||| masks) :=
  congrArg (State.withCc · _) (s.pushBytes_eq .S _)

/-- The `PcNotify` of a write of PC comes after the stores. -/
theorem Stores.setPc {ps : List (Word × Byte)} {s t : State} (h : Stores ps [] [] s t) (v : Word) :
    Stores ps [.pcNotify v] [] s (t.setPc v) := Stores.jump (t := { t with ea := v }) h

/-- What an entry leaves (R610, R614). -/
theorem State.entryTo_enter {s : State} (hw : Memory.wf s.mem = true) (frame : Stacking) (i f : Bool) (vector : Word) :
    EntryTo frame (maskBits i f) vector [] s (s.enter frame i f vector) := by
  have stores : Stores (pushes (s.s - BitVec.ofNat 16 (frameBytes frame s).length) (frameBytes frame s)) [] [] s
      (s.stacked frame (maskBits i f)) := by
    have pushed := (State.Computes.pushesBytes (u := s) rfl hw .S (frameBytes frame s)).1
    rw [State.reg_pushBytes_same] at pushed
    exact Stores.of_computes pushed rfl
  rw [State.enter_eq]
  have fields := s.stacked_eq frame (maskBits i f)
  generalize s.stacked frame (maskBits i f) = t at *
  rw [fields] at stores ⊢
  exact ⟨rfl, Stores.setPc stores _, rfl, rfl, rfl, rfl, rfl, rfl, rfl⟩

/-! ### A service (R601, R610, R612) -/

/-- A state after a service: DP, its latch cleared, Running. -/
def State.served (s : State) (k : IntKind) (dp : Byte) : State :=
  { s with dp := dp, latches := s.latches.set k false, run := .running }

/-- Clearing one latch after stores. -/
theorem Stores.served {ps : List (Word × Byte)} {after : List Event} {s t : State} (h : Stores ps after [] s t)
    (k : IntKind) (dp : Byte) : Stores ps after [k] s (t.served k dp) := by
  obtain ⟨mem, events, devices, latches, free⟩ := h
  have cleared {l : Latches} (j : IntKind) (hj : t.latches.get j = (l.get j && !([] : List IntKind).contains j)) :
      (t.latches.set k false).get j = (l.get j && !([k] : List IntKind).contains j) := by
    rw [Latches.get_set, hj]
    by_cases same : j = k <;> simp [same]
  refine ⟨mem, events, devices, fun j => cleared j (latches j), fun hd => ?_⟩
  obtain ⟨reads, told, devices, latches⟩ := free hd
  exact ⟨reads, told, devices, fun j => cleared j (latches j)⟩

theorem EntryTo.served {f : Stacking} {masks : Byte} {vector : Word} {s t : State} (h : EntryTo f masks vector [] s t)
    (k : IntKind) (dp : Byte) : EntryTo f masks vector [k] s (t.served k dp) := by
  obtain ⟨pointer, stores, rest⟩ := h
  exact ⟨pointer, Stores.served stores k dp, rest⟩

theorem State.service_eq_served (s : State) (k : IntKind) :
    s.service k = (s.enter (s.frameOf k) true k.setsF (k.vector s.cfg.vectors)).served k
      (if k = .reset ∧ s.cfg.resetClearsDp then 0 else s.dp) := by
  have dp : (s.enter (s.frameOf k) true k.setsF (k.vector s.cfg.vectors)).dp = s.dp := by
    rw [State.Entered.enter s _ _ _ _]
  rw [State.service_eq, dp]
  rfl

/-- What a service leaves of the fields that its entry does not name. -/
structure ServedRest (dp : Byte) (s t : State) : Prop where
  dp : t.dp = dp
  run : t.run = .running
  page : t.page = s.page
  windows : t.windows = s.windows
  cfg : t.cfg = s.cfg
  asm : t.asm = s.asm
  illegalCount : t.illegalCount = s.illegalCount

theorem State.service_rest (s : State) (k : IntKind) :
    ServedRest (if k = .reset ∧ s.cfg.resetClearsDp then 0 else s.dp) s (s.service k) := by
  rw [State.service_eq_served, State.Entered.enter s (s.frameOf k) true k.setsF (k.vector s.cfg.vectors)]
  exact ⟨rfl, rfl, rfl, rfl, rfl, rfl, rfl⟩

/-- A service is the entry of its kind, its latch cleared (R610, R612). -/
theorem State.entryTo_service {s : State} (hw : Memory.wf s.mem = true) (k : IntKind) :
    EntryTo (s.frameOf k) (maskBits true k.setsF) (k.vector s.cfg.vectors) [k] s (s.service k) := by
  rw [State.service_eq_served]
  exact EntryTo.served (State.entryTo_enter hw _ _ _ _) k _

/-- Settles O16: the service of a kind that is not RESET, with its frame and masks by name. -/
theorem serviceEntry : Obligations.ServiceEntry := by
  intro s k notReset hw
  have entry := State.entryTo_service hw k
  obtain ⟨dp, run, page, windows, cfg, asm, count⟩ := s.service_rest k
  refine ⟨?_, dp.trans (if_neg fun h => notReset h.1), run, page, windows, cfg, asm, count⟩
  cases k with
  | reset => exact absurd rfl notReset
  | nmi | firq | irq => exact entry

/-- Settles O17: the service of RESET, whose frame is RESET_STACKING's. -/
theorem resetService : Obligations.ResetService := by
  intro s hw
  obtain ⟨dp, run, page, windows, cfg, asm, count⟩ := s.service_rest .reset
  refine ⟨State.entryTo_service hw .reset, ?_, run, page, windows, cfg, asm, count⟩
  simpa using dp

/-! ### The interrupt check (R606, R607) -/

theorem State.awake_eq (s : State) :
    s.awake = { s with run := if s.run = .syncing ∧ s.latches.any = true then .running else s.run } := by
  unfold State.awake
  split <;> rfl

theorem storeAll_latches {s : State} (hd : s.deviceFree = true) (ps : List (Word × Byte)) :
    (storeAll s ps).latches = s.latches := by
  rw [storeAll_free hd]

/-- With no device on a window an entry moves no latch. -/
theorem State.enter_latches {s : State} (hd : s.deviceFree = true) (frame : Stacking) (i f : Bool) (vector : Word) :
    (s.enter frame i f vector).latches = s.latches := by
  have pushed : (s.pushBytes .S (frameBytes frame s)).latches = s.latches := by
    rw [State.pushBytes, storeAll_setReg, State.setReg_latches, storeAll_latches hd]
  rw [State.enter_eq]
  exact pushed

/-- Settles O15: the check is the service of the first kind that may be serviced, or what ends Syncing. -/
theorem checkServicesHighestPriority : Obligations.CheckServicesHighestPriority := by
  intro s awake
  have woken : s.awake = awake := s.awake_eq
  refine ⟨fun k h first => ?_, fun none => (State.checkInterrupts_of_none none).trans woken⟩
  have serves : s.checkInterrupts = awake.service k := woken ▸ State.checkInterrupts_of_first h first
  have latch (j : IntKind) : (awake.service k).latches.get j = if j = k then false else
      (awake.enter (awake.frameOf k) true k.setsF (k.vector s.cfg.vectors)).latches.get j := by
    rw [State.service_eq_served]
    exact Latches.get_set _ k j false
  rw [serves]
  refine ⟨rfl, (awake.service_rest k).run, (latch k).trans (if_pos rfl), fun hd j hj => ?_⟩
  rw [latch j, if_neg hj, State.enter_latches (s := awake) hd]

/-! ### The software interrupts (R614) -/

/-- Settles O50: each is the entry with the entire frame and its own masks, and `ntck`. -/
theorem softwareInterrupts : Obligations.SoftwareInterrupts := by
  intro p hp s hw
  obtain ⟨masks, bits, meaning⟩ : ∃ masks, p.2.1 = maskBits masks masks ∧
      exec p.1 s = .next (s.swi masks (p.2.2 s.cfg.vectors)) := by
    fin_cases hp
    exacts [⟨true, rfl, rfl⟩, ⟨false, rfl, rfl⟩, ⟨false, rfl, rfl⟩]
  have entry := State.entryTo_enter hw .entire masks masks (p.2.2 s.cfg.vectors)
  have entered := State.Entered.enter s .entire masks masks (p.2.2 s.cfg.vectors)
  refine ⟨_, meaning, bits ▸ entry, ?_, rfl, ?_⟩
  · rw [State.swi, entered]
  · rw [State.swi, entered]
    exact ⟨rfl, rfl, rfl, rfl, rfl, rfl, rfl, rfl⟩

end Sys2Proof.Machine
end

section
/-! PROOF. RTI (R483, R616): it is the pull of a register list that the E bit at S selects, and undoes the entry that
stacked it. -/

namespace Sys2Proof.Machine

open Sys2Proof.Claims

/-! ### RTI as a pull (R616) -/

/-- The register list that RTI pulls, by the CC on the stack: all registers, or CC and PC. -/
def rtiList (cc : Byte) : Byte := if cc.getLsbD 7 then 0xFF else 0x81

theorem State.pullReg_CC_flag_E (s : State) : (s.pullReg .S .CC).flag .E = (s.peek s.s).getLsbD 7 :=
  congrArg (flagOf · .E) (loByte_zext16 (s.peek s.s))

/-- RTI is PULS with the list its E bit selects. -/
theorem exec_rti (s : State) : exec .rti s = exec (.puls (rtiList (s.peek s.s))) s := by
  show Host.Outcome.next s.rti = .next (s.pullList .S (rtiList (s.peek s.s)))
  rw [State.rti, State.pullReg_CC_flag_E, rtiList]
  cases (s.peek s.s).getLsbD 7 with
  | true => rfl
  | false => rfl

/-- Settles O51: each register is what the pull of its list leaves; the places are the list's offsets. -/
theorem returnFromInterrupt : Obligations.ReturnFromInterrupt := by
  intro s
  obtain ⟨t, meaning, pulled⟩ := pullRegisterList (.puls, .S) (by simp) (rtiList (s.peek s.s)) s
  refine ⟨t, (exec_rti s).trans meaning, ?_⟩
  have lowest : s.peek (s.s + BitVec.ofNat 16 0) = s.peek s.s := congrArg s.peek (BitVec.add_zero s.s)
  rw [rtiList] at pulled
  cases entire : (s.peek s.s).getLsbD 7 with
  | true =>
    rw [if_pos entire] at pulled
    obtain ⟨cc, a, b, dp, x, y, u, pc, ntck, pointer, memory, rest⟩ := pulled
    exact ⟨cc.trans lowest, ⟨a, b, dp, x, y, u, ⟨pc, ntck, rest⟩, pointer⟩, memory⟩
  | false =>
    rw [if_neg (Bool.eq_false_iff.mp entire)] at pulled
    obtain ⟨cc, a, b, dp, x, y, u, pc, ntck, pointer, memory, rest⟩ := pulled
    exact ⟨cc.trans lowest, ⟨sameRegs_but_s a b x y u dp, ⟨pc, ntck, rest⟩, pointer⟩, memory⟩

/-! ### Reading a frame back (R61, R66) -/

/-- An address some way up, masked. -/
theorem State.mask_add (s : State) (base : Word) (k : Nat) :
    s.mask (base + BitVec.ofNat 16 k) = (base.toNat + k) % s.memSize := by
  have divides : s.memSize ∣ 2 ^ 16 := Nat.pow_dvd_pow 2 (Nat.le_of_lt_succ s.cfg.memBits.isLt)
  rw [State.mask, BitVec.toNat_add, BitVec.toNat_ofNat, Nat.add_mod_mod, Nat.mod_mod_of_dvd _ divides]

/-- An address less than the array's size up is another masked address. -/
theorem State.mask_add_ne (s : State) (base : Word) {k : Nat} (pos : 0 < k) (small : k < s.memSize) :
    s.mask (base + BitVec.ofNat 16 k) ≠ s.mask base := by
  rw [State.mask_add, State.mask]
  intro same
  have fold : k % s.memSize = 0 := by simpa using Nat.sub_mod_eq_zero_of_mod_eq same
  rw [Nat.mod_eq_of_lt small] at fold
  omega

theorem pushes_cons (base : Word) (b : Byte) (bs : List Byte) :
    pushes base (b :: bs) = pushes (base + 1) bs ++ [(base, b)] := by
  simpa [pushes] using pushes_append base [b] bs

theorem readAfter_concat (s : State) (ps : List (Word × Byte)) (p : Word × Byte) (addr : Word) :
    readAfter s (ps ++ [p]) addr = if s.mask addr = s.mask p.1 then p.2 else readAfter s ps addr :=
  List.foldl_append ..

/-- Pushed bytes that do not fold onto each other are read back where they lie. -/
theorem readAfter_pushes (s : State) (base : Word) (bs : List Byte) (fits : bs.length ≤ s.memSize) {k : Nat} {v : Byte}
    (hk : bs[k]? = some v) : readAfter s (pushes base bs) (base + BitVec.ofNat 16 k) = v := by
  induction bs generalizing base k with
  | nil => simp at hk
  | cons b bs ih =>
    rw [pushes_cons, readAfter_concat]
    rw [List.length_cons] at fits
    cases k with
    | zero =>
      cases hk
      simp
    | succ k =>
      have inside : k < bs.length := Nat.lt_of_succ_lt_succ (List.getElem?_eq_some_iff.mp hk).1
      have above : base + BitVec.ofNat 16 (k + 1) = base + 1 + BitVec.ofNat 16 k := by
        rw [Nat.add_comm, BitVec.ofNat_add, ← BitVec.add_assoc]
        rfl
      rw [if_neg (s.mask_add_ne base k.succ_pos (by omega)), above]
      exact ih (base + 1) (by omega) hk

/-- What lies at `k` above the new S after an entry, where no device may store on it. -/
theorem EntryTo.peek_frame {f : Stacking} {masks : Byte} {vector : Word} {cleared : List IntKind} {s t : State}
    (h : EntryTo f masks vector cleared s t) (hd : s.deviceFree = true) (fits : (frameBytes f s).length ≤ s.memSize)
    {k : Nat} {v : Byte} (hk : (frameBytes f s)[k]? = some v) : t.peek (t.s + BitVec.ofNat 16 k) = v := by
  obtain ⟨-, ⟨-, -, -, -, free⟩, -⟩ := h
  exact ((free hd).1 _).trans (readAfter_pushes s t.s _ fits hk)

theorem EntryTo.wordAt_frame {f : Stacking} {masks : Byte} {vector : Word} {cleared : List IntKind} {s t : State}
    (h : EntryTo f masks vector cleared s t) (hd : s.deviceFree = true) (fits : (frameBytes f s).length ≤ s.memSize)
    {k : Nat} {v : Word} (hi : (frameBytes f s)[k]? = some (hiByte v)) (lo : (frameBytes f s)[k + 1]? = some (loByte v)) :
    wordAt t (t.s + BitVec.ofNat 16 k) = v := by
  have next : t.s + BitVec.ofNat 16 k + 1 = t.s + BitVec.ofNat 16 (k + 1) := by
    rw [BitVec.add_assoc, BitVec.ofNat_add]
    rfl
  rw [wordAt, next, EntryTo.peek_frame h hd fits hi, EntryTo.peek_frame h hd fits lo, wordOf_hiByte_loByte]

/-! ### RTI after an entry -/

/-- RTI gives back the registers and PC of before an entry, and CC with E as its frame has it. -/
def Returns (f : Stacking) (s t : State) : Prop :=
  ∃ u, exec .rti t = .next u ∧ SameRegs [] s u ∧ u.pc = s.pc ∧ u.cc = frameCc f s.cc

/-- S restored beside all the others. -/
theorem sameRegs_of_pointer {s t : State} (h : SameRegs [.S] s t) (pointer : t.s = s.s) : SameRegs [] s t := by
  intro r hr _
  by_cases stack : r = .S
  · rw [stack]
    exact pointer
  · exact h r hr (by simpa using stack)

section
variable {f : Stacking} {masks : Byte} {vector : Word} {cleared : List IntKind} {s t : State}

/-- After an entire frame the pull of every register reads back every byte of it. -/
theorem EntryTo.returns_entire (h : EntryTo .entire masks vector cleared s t) (hd : s.deviceFree = true)
    (fits : 12 ≤ s.memSize) : Returns .entire s t := by
  have byte {k : Nat} {v : Byte} := EntryTo.peek_frame h hd (k := k) (v := v) fits
  have word {k : Nat} {v : Word} := EntryTo.wordAt_frame h hd (k := k) (v := v) fits
  have lowest : t.peek t.s = s.cc ||| 0x80 := (congrArg t.peek (BitVec.add_zero t.s)).symm.trans (byte (k := 0) rfl)
  have entire : (s.cc ||| 0x80).getLsbD 7 = true := by simp
  have pointer : t.s = s.s - 12 := h.1
  obtain ⟨u, meaning, cc, regs, -⟩ := returnFromInterrupt t
  rw [lowest, if_pos entire] at regs
  obtain ⟨a, b, dp, x, y, u', ⟨pc, -⟩, sp⟩ := regs
  have restored : SameRegs [.S] s u := sameRegs_but_s (a.trans (byte (k := 1) rfl)) (b.trans (byte (k := 2) rfl))
    (x.trans (word (k := 4) rfl rfl)) (y.trans (word (k := 6) rfl rfl)) (u'.trans (word (k := 8) rfl rfl))
    (dp.trans (byte (k := 3) rfl))
  refine ⟨u, meaning, sameRegs_of_pointer restored ?_, pc.trans (word (k := 10) rfl rfl), cc.trans lowest⟩
  rw [sp, pointer, BitVec.sub_add_cancel]

/-- After a small frame the pull of CC and PC reads it back, and the entry has moved no other register. -/
theorem EntryTo.returns_small (h : EntryTo .pcAndCc masks vector cleared s t) (dp : t.dp = s.dp)
    (hd : s.deviceFree = true) (fits : 12 ≤ s.memSize) : Returns .pcAndCc s t := by
  have small : (frameBytes .pcAndCc s).length ≤ s.memSize := Nat.le_trans (by decide : 3 ≤ 12) fits
  have byte := EntryTo.peek_frame h hd (k := 0) small rfl
  have word := EntryTo.wordAt_frame h hd (k := 1) (v := s.pc) small rfl rfl
  have lowest : t.peek t.s = s.cc &&& 0x7F := (congrArg t.peek (BitVec.add_zero t.s)).symm.trans byte
  have partly : ¬(s.cc &&& 0x7F).getLsbD 7 = true := by simp
  obtain ⟨pointer, -, -, -, a, b, x, y, u⟩ := h
  have entered : SameRegs [.S] s t := sameRegs_but_s a b x y u dp
  obtain ⟨v, meaning, cc, regs, -⟩ := returnFromInterrupt t
  rw [lowest, if_neg partly] at regs
  obtain ⟨same, ⟨pc, -⟩, sp⟩ := regs
  have restored : SameRegs [.S] s v := fun r hr hn => (same r hr hn).trans (entered r hr hn)
  refine ⟨v, meaning, sameRegs_of_pointer restored ?_, pc.trans word, cc.trans lowest⟩
  rw [sp, pointer]
  exact BitVec.sub_add_cancel s.s 3

end

/-- RTI undoes a service that is not RESET's, where the frame of its kind was pushed. -/
theorem State.service_returns {s : State} (hw : Memory.wf s.mem = true) (fits : 12 ≤ s.memSize) (hd : s.deviceFree = true)
    {k : IntKind} (hk : k ≠ .reset) (pushed : ¬(s.run = .waiting ∧ s.cfg.cwaiPrestack = true)) :
    Returns (if k = .firq then .pcAndCc else .entire) s (s.service k) := by
  obtain ⟨entry, dp, -⟩ := serviceEntry s k hk hw
  rw [if_neg pushed] at entry
  by_cases small : k = .firq
  · rw [if_pos small] at entry ⊢
    exact EntryTo.returns_small entry dp hd fits
  · rw [if_neg small] at entry ⊢
    exact EntryTo.returns_entire entry hd fits

/-- Settles O19: RTI reads back the frame that the service or the software interrupt stacked. -/
theorem returnUndoesEntry : Obligations.ReturnUndoesEntry := by
  intro s hw fits hd
  refine ⟨fun k hk stacked => ?_, fun i hi => ?_⟩
  · have notReset : k ≠ .reset := by rintro rfl; simp at hk
    have pushed : ¬(s.run = .waiting ∧ s.cfg.cwaiPrestack = true) := fun ⟨waits, prestacked⟩ => by
      cases prestacked.symm.trans (stacked waits)
    obtain ⟨u, meaning, regs, pc, cc⟩ := State.service_returns hw fits hd notReset pushed
    refine ⟨u, meaning, regs, pc, cc.trans ?_⟩
    split <;> rfl
  · obtain ⟨p, hp, rfl⟩ : ∃ p ∈ [(Instr.swi, (0x50 : Byte), Vectors.swi), (.swi2, 0, Vectors.swi2),
        (.swi3, 0, Vectors.swi3)], p.1 = i := List.mem_map.mp (by simpa using hi)
    obtain ⟨t, meaning, entry, -⟩ := softwareInterrupts p hp s hw
    obtain ⟨u, back, regs, pc, cc⟩ := EntryTo.returns_entire entry hd fits
    exact ⟨t, u, meaning, back, regs, pc, cc⟩

end Sys2Proof.Machine
end

section
/-! PROOF. An opcode with no entry (R140, R141, R175, R600): what the decoder says of it, and the one raise of its step. -/

namespace Sys2Proof

/-- A marker of the decoder is a byte with no entry at the first lookup, or at the second on the page that the
first selects. -/
theorem decode_eq_illegal {bs : List Byte} {o : Byte} {p : Page} {n : Nat} (h : decode bs = .illegal o p n) :
    (decodeEntry .p0 bs = .notFound o ∧ p = .p0 ∧ n = 1) ∨
    (∃ j op k, decodeEntry .p0 bs = .found j op k ∧ j.selectsPage ≠ .p0 ∧ p = j.selectsPage ∧
      decodeEntry p (bs.drop k) = .notFound o ∧ n = k + 1) := by
  unfold decode at h
  split at h
  · cases h
  next first =>
    cases h
    exact .inl ⟨first, rfl, rfl⟩
  next j op k first =>
    split at h
    · cases h
    next page =>
      split at h
      · cases h
      next second =>
        cases h
        exact .inr ⟨j, op, k, first, page, rfl, second, rfl⟩
      · cases h

/-- A lookup finds no entry for the first byte. -/
theorem decodeEntry_notFound_opcode {p : Page} {b o : Byte} {bs : List Byte} (h : decodeEntry p (b :: bs) = .notFound o) :
    o = b := by
  simp only [decodeEntry] at h
  repeat' split at h
  all_goals cases h
  all_goals rfl

end Sys2Proof

namespace Sys2Proof.Machine

open Sys2Proof.Claims

/-- Where the first lookup finds no entry, the bytes at PC begin with no page byte. -/
theorem pageAt_of_notFound {s : State} {o : Byte} (h : decodeEntry .p0 (stream s) = .notFound o) : pageAt s = .p0 := by
  unfold pageAt
  split
  next hp => rw [stream, hp] at h; cases h
  next =>
    split
    next hp => rw [stream, hp] at h; cases h
    next => rfl

/-- The state after the one raise of a cycle, `n` bytes past PC: the event, the count, page 0 and the last `PcNotify`
(R600). -/
def raisedAt (s : State) (o : Byte) (p : Page) (n : Nat) : State :=
  { s with
    pc := s.pc + BitVec.ofNat 16 n
    page := .p0
    op := o
    ntck := false
    illegalCount := s.illegalCount + 1
    events := ((List.range n).map fun k => .pcNotify (s.pc + BitVec.ofNat 16 (k + 1))) ++
      [.illegalOpcode o p, .pcNotify (s.pc + BitVec.ofNat 16 n)] }

/-- The start of a cycle after the fetch of `n` bytes, on a page, with an opcode byte. -/
def fetchedAs (s : State) (o : Byte) (p : Page) (n : Nat) : State :=
  { s.beginCommand.beginCycle.advance n with page := p, op := o }

theorem fetchedAs_raise {s : State} (hp : s.Proceeds) (o : Byte) (p : Page) (n : Nat) :
    ∃ t, (fetchedAs s o p n).raiseIllegal = .next t ∧ t.endCycle = raisedAt s o p n := by
  refine ⟨_, State.raiseIllegal_proceed ((Keeps.advance _ n).proceeds hp), ?_⟩
  rw [fetchedAs, State.advance_eq]
  simp [State.endCycle, State.emit, raisedAt, State.beginCommand, State.beginCycle]

theorem State.fetchExecute_of_notFound {s : State} {o : Byte} (h : decodeEntry s.page s.fetchWindow = .notFound o) :
    s.fetchExecute = State.raiseIllegal { s.advance 1 with op := o } := by
  rw [State.fetchExecute, h]

/-- After the fetch of a page byte the window is the bytes after it. -/
theorem fetchedAs_window (s : State) (o : Byte) (p : Page) : (fetchedAs s o p 1).fetchWindow = (stream s).drop 1 := by
  show [s.peek (s.pc + 1), s.peek (s.pc + 1 + 1), s.peek (s.pc + 1 + 2), s.peek (s.pc + 1 + 3)] = _
  simp only [BitVec.add_assoc]
  rfl

/-- The lookups of a cycle find no entry where the decoder finds none, on the same page and after the same bytes (R140,
R141). -/
theorem State.lookups_of_illegal {s : State} {o : Byte} {p : Page} {n : Nat} (h : decode (stream s) = .illegal o p n) :
    (p = pageAt s ∧ o = opcodeAt s ∧ n = if p = .p0 then 1 else 2) ∧
    (onNext s.beginCommand.beginCycle.fetchExecute fun t => if t.page = .p0 then .next t else t.fetchExecute) =
      (fetchedAs s o p n).raiseIllegal := by
  rcases decode_eq_illegal h with ⟨first, rfl, rfl⟩ | ⟨j, op, k, first, page, rfl, second, rfl⟩
  · have page0 := pageAt_of_notFound first
    refine ⟨⟨page0.symm, ?_, rfl⟩, ?_⟩
    · rw [opcodeAt, if_pos page0]
      exact decodeEntry_notFound_opcode first
    · have raises : s.beginCommand.beginCycle.fetchExecute = (fetchedAs s o .p0 1).raiseIllegal :=
        State.fetchExecute_of_notFound ((decodeEntry_five _ _ _ _ _ _).symm.trans first)
      rw [raises]
      cases raised : (fetchedAs s o .p0 1).raiseIllegal with
      | next t => exact if_pos (State.raiseIllegal_page raised)
      | fault f => rfl
      | refused r => rfl
  · obtain ⟨rfl, pageS, marks⟩ := decodeEntry_stream_prefix first page
    refine ⟨⟨pageS.symm, ?_, (if_neg page).symm⟩, ?_⟩
    · rw [opcodeAt, if_neg (pageS ▸ page)]
      exact decodeEntry_notFound_opcode second
    · have start : s.beginCommand.beginCycle.fetchExecute = .next (fetchedAs s op j.selectsPage 1) := by
        rw [State.fetchExecute_of_found ((decodeEntry_five _ _ _ _ _ _).symm.trans first), marks]
        rfl
      have again : (fetchedAs s op j.selectsPage 1).fetchExecute = (fetchedAs s o j.selectsPage 2).raiseIllegal :=
        State.fetchExecute_of_notFound (fetchedAs_window s op j.selectsPage ▸ second)
      rw [start]
      exact (if_neg page).trans again

/-- The step of a Running machine whose cycle raises: the raise, then the check. -/
theorem step_of_raise {s : State} (run : s.run = .running) (hp : s.Proceeds) {o : Byte} {p : Page} {n : Nat}
    (cycle : s.beginCommand.cycle = onNext (fetchedAs s o p n).raiseIllegal fun t => .next t.endCycle) :
    step s = .next (raisedAt s o p n).checkInterrupts := by
  obtain ⟨t, raised, ended⟩ := fetchedAs_raise hp o p n
  rw [step_of_running run, cycle, raised, ← ended]
  rfl

theorem step_of_illegal {s : State} (table : DefaultTable s) (run : s.run = .running) (hp : s.Proceeds) {o : Byte} {p : Page}
    {n : Nat} (h : decode (stream s) = .illegal o p n) : step s = .next (raisedAt s o p n).checkInterrupts := by
  refine step_of_raise run hp ?_
  rw [State.cycle_default s.beginCommand table, ← (State.lookups_of_illegal h).2, onNext_assoc]

/-- The loop of R140 ends at once at a byte with no record, or with one whose program begins with `err` (R175). -/
theorem State.fetchLoop_of_err {es : List TableEntry} {s : State} (hp : s.Proceeds) (n : Nat)
    (err : ∀ e, findEntry es (s.peek s.pc) s.page = some e → ∃ ts, e.microcode = .err :: ts) :
    State.fetchLoop es (n + 1) s = State.raiseIllegal { s.advance 1 with op := s.peek s.pc } := by
  cases found : findEntry es (s.peek s.pc) s.page with
  | none => simp only [State.fetchLoop, found]
  | some e =>
    obtain ⟨ts, program⟩ := err e found
    have proceeds : State.Proceeds { s.advance 1 with op := s.peek s.pc } := (Keeps.advance s 1).proceeds hp
    obtain ⟨t, raised⟩ := Completes.raise proceeds
    have counted : t.illegalCount ≠ s.illegalCount := by
      rw [(State.raiseIllegal_raised raised).count]
      exact Nat.succ_ne_self _
    have runs : State.runMicrocode { s.advance 1 with op := s.peek s.pc } e.format e.microcode = .next t := by
      rw [program]
      exact raised
    rw [State.fetchLoop, raised]
    simp only [found, runs, onNext, counted, and_false, if_false]

/-- Settles O6: over the default table the lookups raise where the decoder marks, over a custom one the loop's first
turn raises. -/
theorem stepIllegalOpcode : Obligations.StepIllegalOpcode := by
  refine ⟨fun s o p n table run h hp => ⟨step_of_illegal table run hp h, (State.lookups_of_illegal h).1⟩,
    fun s es table run hp err => ?_⟩
  refine step_of_raise run hp ?_
  have loop : State.fetchLoop es s.beginCommand.prefixLimit s.beginCommand.beginCycle =
      (fetchedAs s (s.peek s.pc) .p0 1).raiseIllegal :=
    State.fetchLoop_of_err (s := s.beginCommand.beginCycle) hp _ err
  rw [← loop, State.cycle, show s.beginCommand.cfg.opcodeTable = .custom es from table]

end Sys2Proof.Machine
end

section
/-! PROOF. The boundaries of instructions (R561, R562, R575): the decoder's length of a line, over the default table and over
its records as a custom one, is that of the engine's fetch; and PC stays there after an instruction that does not transfer
control. -/

namespace Sys2Proof

/-! ### The length of a line (R104, R561) -/

/-- An operand of each format. -/
def Format.sample : Format → Operand
  | .inh => .inh
  | .imm8 => .imm8 0
  | .imm16 => .imm16 0
  | .dir => .dir 0
  | .ext => .ext 0
  | .idx => .idx (.off5 .X 0)
  | .rel8 => .rel8 0
  | .rel16 => .rel16 0
  | .rpair => .rpair (.reg .D) (.reg .D)
  | .rlist => .rlist 0
  | .pager => .pager

/-- Whether a mnemonic takes an operand is a matter of the operand's format (R105). -/
theorem Instr.make_isSome (m : Mnemonic) (o : Operand) :
    (Instr.make m o).isSome = (Instr.make m o.format.sample).isSome := by
  cases o <;> cases m <;> rfl

/-- Each row's mnemonic takes the operands of its format (R105, R110). -/
theorem makes_rows : ∀ r ∈ opcodeTable, (Instr.make r.mnemonic r.format.sample).isSome := by decide +kernel

theorem decodeEntry_of_opFind_none {b : Byte} {p : Page} (h : opFind b p = none) (bs : List Byte) :
    decodeEntry p (b :: bs) = .notFound b := by
  simp only [decodeEntry, h]

/-- The length of a line (R561, R562). -/
def Decoded.length : Decoded → Nat
  | .instr _ n => n
  | .illegal _ _ n => n
  | .short => 1

/-- A row of another page than 0 is no prefix entry (R103). -/
theorem opFind_ne_pager {b : Byte} {p : Page} {r : Row} (h : opFind b p = some r) (hp : p ≠ .p0) : r.format ≠ .pager := by
  intro pager
  rw [← (opFind_key h).2] at hp
  obtain rfl | rfl := pager_rows r (opFind_mem h) pager <;> exact hp rfl

/-- A prefix row selects the page of its byte (R31, R103). -/
theorem decodeEntry_of_pager {b : Byte} {r : Row} (h : opFind b .p0 = some r) (pager : r.format = .pager) (bs : List Byte) :
    ∃ j, decodeEntry .p0 (b :: bs) = .found j b 1 ∧ j.selectsPage ≠ .p0 ∧ Page.ofByte b = some j.selectsPage := by
  obtain rfl := (opFind_key h).1
  obtain rfl | rfl := pager_rows r (opFind_mem h) pager
  · exact ⟨.prefix10, rfl, by decide, rfl⟩
  · exact ⟨.prefix11, rfl, by decide, rfl⟩

end Sys2Proof

namespace Sys2Proof.Machine

open Sys2Proof.Claims

section
variable (s : State) (labels : List Label) (addr : Nat)

/-- The record that a lookup found, read by its format: the length of a line of a custom table (R561). -/
theorem State.decodeCustom_length_of_row {es : List TableEntry} {r : Row} {n k : Nat} {b : Byte} {o : Operand}
    (found : s.lookupAt es addr = (some r.entry, n, b))
    (read : decodeOperand r.format (s.bytesAt (addr + n) 3) = some (o, k)) :
    (s.decodeCustom es labels addr).1 = n + k := by
  rw [State.decodeCustom, found]
  have format : r.entry.format = r.format := rfl
  simp only [format, read]

theorem State.decodeCustom_length_of_none {es : List TableEntry} {n : Nat} {b : Byte}
    (found : s.lookupAt es addr = (none, n, b)) : (s.decodeCustom es labels addr).1 = n := by
  rw [State.decodeCustom, found]

/-- A lookup that finds a row answers an instruction, of the bytes that the row's format reads (R104, R142). -/
theorem State.lookup_of_opFind {a : Nat} {p : Page} {r : Row} (h : opFind (s.peek (BitVec.ofNat 16 a)) p = some r) :
    ∃ o k i, decodeOperand r.format (s.bytesAt (a + 1) 3) = some (o, k) ∧ Instr.make r.mnemonic o = some i ∧
      decodeEntry p (s.bytesAt a 4) = .found i (s.peek (BitVec.ofNat 16 a)) (k + 1) := by
  have whole : (decodeOperand r.format (s.bytesAt (a + 1) 3)).isSome := (decodeOperand_three r.format _ _ _ 0).2
  obtain ⟨⟨o, k⟩, read⟩ := Option.isSome_iff_exists.mp whole
  have format := (decodeOperand_eq_some read).1
  obtain ⟨i, made⟩ := Option.isSome_iff_exists.mp
    ((Instr.make_isSome r.mnemonic o).trans (format ▸ makes_rows r (opFind_mem h)))
  refine ⟨o, k, i, read, made, ?_⟩
  rw [State.bytesAt]
  simp only [decodeEntry, h, read, made]

/-- A line that begins with a page byte has its length from the second lookup (R103, R561). -/
theorem State.decodeCustom_length_of_pager {r : Row} (first : opFind (s.peek (BitVec.ofNat 16 addr)) .p0 = some r)
    (pager : r.format = .pager) :
    (s.decodeCustom OpcodeTable.standard.entries labels addr).1 = (decode (s.bytesAt addr 5)).length := by
  obtain ⟨j, lookup, page, byte⟩ := decodeEntry_of_pager first pager (s.bytesAt (addr + 1) 4)
  have prefixed : decodeEntry .p0 (s.bytesAt addr 5) = .found j (s.peek (BitVec.ofNat 16 addr)) 1 := lookup
  have format : r.entry.format = .pager := pager
  cases second : opFind (s.peek (BitVec.ofNat 16 (addr + 1))) j.selectsPage with
  | none =>
    have found : s.lookupAt OpcodeTable.standard.entries addr = (none, 2, s.peek (BitVec.ofNat 16 (addr + 1))) := by
      simp [State.lookupAt, findEntry_standard, first, format, byte, second]
    have entry : decodeEntry j.selectsPage ((s.bytesAt addr 5).drop 1) = .notFound _ := decodeEntry_of_opFind_none second _
    rw [s.decodeCustom_length_of_none labels addr found, decode, prefixed]
    simp only [if_neg page, entry, Decoded.length]
  | some q =>
    have plain : q.entry.format ≠ .pager := opFind_ne_pager second page
    have found : s.lookupAt OpcodeTable.standard.entries addr =
        (some q.entry, 2, s.peek (BitVec.ofNat 16 (addr + 1))) := by
      simp [State.lookupAt, findEntry_standard, first, format, byte, second, plain]
    obtain ⟨o, k, i, read, -, entry⟩ := s.lookup_of_opFind second
    rw [s.decodeCustom_length_of_row labels addr found read, decode_of_second prefixed page entry, Decoded.length]
    omega

/-- Over the records of the default table as a custom one, a line has the length that the decoder of the default table
gives. -/
theorem State.decodeCustom_length :
    (s.decodeCustom OpcodeTable.standard.entries labels addr).1 = (decode (s.bytesAt addr 5)).length := by
  cases first : opFind (s.peek (BitVec.ofNat 16 addr)) .p0 with
  | none =>
    have found : s.lookupAt OpcodeTable.standard.entries addr = (none, 1, s.peek (BitVec.ofNat 16 addr)) := by
      simp [State.lookupAt, findEntry_standard, first]
    have entry : decodeEntry .p0 (s.bytesAt addr 5) = .notFound _ := decodeEntry_of_opFind_none first _
    rw [s.decodeCustom_length_of_none labels addr found, decode, entry]
    rfl
  | some r =>
    by_cases pager : r.format = .pager
    · exact s.decodeCustom_length_of_pager labels addr first pager
    · have plain : r.entry.format ≠ .pager := pager
      have found : s.lookupAt OpcodeTable.standard.entries addr = (some r.entry, 1, s.peek (BitVec.ofNat 16 addr)) := by
        simp [State.lookupAt, findEntry_standard, first, plain]
      obtain ⟨o, k, i, read, made, entry⟩ := s.lookup_of_opFind first
      have page : i.selectsPage = .p0 :=
        (make_selectsPage made).resolve_right fun e => pager (decodeOperand_pager (e ▸ read))
      have five : decodeEntry .p0 (s.bytesAt addr 5) = decodeEntry .p0 (s.bytesAt addr 4) := decodeEntry_five _ _ _ _ _ _
      rw [s.decodeCustom_length_of_row labels addr found read, decode_of_first (five.trans entry) page]
      exact Nat.add_comm 1 k

end

/-- The bytes from PC on are those of the stream, wrapping round the address space (R560). -/
theorem State.bytesAt_pc (s : State) : s.bytesAt s.pc.toNat 5 = stream s := by
  have at_ (k : Nat) : BitVec.ofNat 16 (s.pc.toNat + k) = s.pc + BitVec.ofNat 16 k := by
    rw [BitVec.ofNat_add, BitVec.ofNat_toNat, BitVec.setWidth_eq]
  have zero : BitVec.ofNat 16 s.pc.toNat = s.pc := by rw [BitVec.ofNat_toNat, BitVec.setWidth_eq]
  simp only [State.bytesAt, stream, Nat.add_assoc, at_, zero]
  rfl

/-- The length of the line at PC is what the decoder says of the bytes there (R561, R562). -/
theorem State.decodeOne_length {s : State} (table : DefaultTable s) (labels : List Label) :
    (s.decodeOne labels s.pc.toNat).1 = (decode (stream s)).length := by
  unfold State.decodeOne
  unfold DefaultTable at table
  cases kind : s.cfg.opcodeTable with
  | standard =>
    simp only [State.bytesAt_pc]
    cases decode (stream s) <;> rfl
  | custom es =>
    rw [kind] at table
    obtain rfl : es = OpcodeTable.standard.entries := table
    rw [← State.bytesAt_pc]
    exact s.decodeCustom_length labels _

/-! ### PC after an instruction that transfers no control (R39, R575) -/

/-- An operation that leaves PC alone. -/
abbrev KeepsPc (f : State → State) : Prop := ∀ s, (f s).pc = s.pc

/-- PC is as before in the next state, if one is answered. -/
def PcKept (s : State) (o : Outcome) : Prop := ∀ t, o = .next t → t.pc = s.pc

theorem PcKept.next {s t : State} (h : t.pc = s.pc) : PcKept s (.next t) := by
  rintro _ ⟨⟩
  exact h

theorem PcKept.raise (s : State) : PcKept s s.raiseIllegal := by
  intro t h
  rcases s.raiseIllegal_cases with ⟨-, he⟩ | ⟨-, he⟩
  · cases he.symm.trans h
  · cases he.symm.trans h
    rfl

theorem PcKept.orIllegal {s : State} {r : Option State} {k : State → State} (hr : ∀ u, r = some u → u.pc = s.pc)
    (hk : KeepsPc k) : PcKept s (s.orIllegal r k) := by
  cases r with
  | some u => exact .next ((hk u).trans (hr u rfl))
  | none => exact .raise s

theorem State.resolveEA_pc {s u : State} {m : MemOp} (h : s.resolveEA m = some u) : u.pc = s.pc :=
  (State.resolveEA_addressed h).pc

theorem State.indx_pc {s u : State} {ix : Index} (h : s.indx ix = some u) : u.pc = s.pc := (State.indx_addressed h).pc

/-- A fetched operand: PC is that of the addressing. -/
theorem State.mapEA_pc {s u : State} {m : MemOp} {f : State → State} (hf : KeepsPc f)
    (h : (s.resolveEA m).map f = some u) : u.pc = s.pc := by
  obtain ⟨w, hw, rfl⟩ := Option.map_eq_some_iff.mp h
  exact (hf w).trans (State.resolveEA_pc hw)

theorem State.operand8r1_pc {s u : State} {x : Src8} (h : s.operand8r1 x = some u) : u.pc = s.pc := by
  cases x with
  | imm v => cases h; rfl
  | mem m => exact State.mapEA_pc (f := State.ftch8r1) (fun _ => rfl) h

theorem State.operand8r2_pc {s u : State} {x : Src8} (h : s.operand8r2 x = some u) : u.pc = s.pc := by
  cases x with
  | imm v => cases h; rfl
  | mem m => exact State.mapEA_pc (f := State.ftch8r2) (fun _ => rfl) h

theorem State.operand16r1_pc {s u : State} {x : Src16} (h : s.operand16r1 x = some u) : u.pc = s.pc := by
  cases x with
  | imm v => cases h; rfl
  | mem m => exact State.mapEA_pc (f := State.ftch16r1) (fun _ => rfl) h

theorem State.operand16r2_pc {s u : State} {x : Src16} (h : s.operand16r2 x = some u) : u.pc = s.pc := by
  cases x with
  | imm v => cases h; rfl
  | mem m => exact State.mapEA_pc (f := State.ftch16r2) (fun _ => rfl) h

theorem State.alu_pc (op : AluOp) : KeepsPc fun s => s.alu op := by
  have drawn (s : State) : s.drawn.pc = s.pc := by rw [State.drawn_eq]
  intro s
  cases op with
  | sub8 | sbc8 | sub16 | neg8 | lsr8 | asr8 | lsl8 | daa => exact drawn _
  | _ => rfl

section
variable {r : Reg} (s : State)

theorem test8_pcKept {op : State → State} (ho : KeepsPc op) (src : Src8) : PcKept s (test8 op r src s) :=
  .orIllegal (fun _ => State.operand8r2_pc) fun u => ho (u.ld1 r)

theorem test16_pcKept {op : State → State} (ho : KeepsPc op) (src : Src16) : PcKept s (test16 op r src s) :=
  .orIllegal (fun _ => State.operand16r2_pc) fun u => ho (u.ld1 r)

theorem cmpx_pcKept (src : Src16) : PcKept s (execCmpx src s) := by
  unfold execCmpx
  split
  · exact .orIllegal (fun _ => State.operand16r2_pc) fun u => State.alu_pc .sub16 { u with r1 := s.x }
  · exact test16_pcKept s (State.alu_pc .sub16) src

theorem store8_pcKept (m : MemOp) : PcKept s (store8 r m s) := .orIllegal (fun _ => State.resolveEA_pc) fun _ => rfl

theorem store16_pcKept (m : MemOp) : PcKept s (store16 r m s) := .orIllegal (fun _ => State.resolveEA_pc) fun _ => rfl

theorem readModifyWrite_pcKept {op : State → State} (ho : KeepsPc op) (m : MemOp) : PcKept s (readModifyWrite op m s) :=
  .orIllegal (fun _ => State.resolveEA_pc) fun u => ho u.ftch8r1

variable (hr : r ≠ .PC)
include hr

theorem load8_pcKept (src : Src8) : PcKept s (load8 r src s) :=
  .orIllegal (fun _ => State.operand8r1_pc) fun u => u.setReg_pc_of_ne _ hr

theorem load16_pcKept (src : Src16) : PcKept s (load16 r src s) :=
  .orIllegal (fun _ => State.operand16r1_pc) fun u => u.setReg_pc_of_ne _ hr

theorem lea_pcKept (ix : Index) : PcKept s (lea r ix s) :=
  .orIllegal (fun _ => State.indx_pc) fun u => u.setReg_pc_of_ne _ hr

theorem leaZ_pcKept (ix : Index) : PcKept s (leaZ r ix s) :=
  .orIllegal (fun _ => State.indx_pc) fun u => u.setReg_pc_of_ne _ hr

variable {op : State → State} (ho : KeepsPc op)
include ho

/-- An operation between a read of a register and a write of it. -/
theorem KeepsPc.onReg (s : State) : ((op (s.ld1 r)).st1 r).pc = s.pc :=
  (State.setReg_pc_of_ne _ _ hr).trans (ho (s.ld1 r))

theorem binary8_pcKept (src : Src8) : PcKept s (binary8 op r src s) :=
  .orIllegal (fun _ => State.operand8r2_pc) (KeepsPc.onReg hr ho)

theorem binary16_pcKept (src : Src16) : PcKept s (binary16 op r src s) :=
  .orIllegal (fun _ => State.operand16r2_pc) (KeepsPc.onReg hr ho)

theorem unaryReg_pcKept : PcKept s (unaryReg op r s) := .next (KeepsPc.onReg hr ho s)

end

theorem tfr_pcKept (s : State) {p q : PairReg} (hq : q ≠ .reg .PC) : PcKept s (execTfr p q s) := by
  rcases p with p | c <;> rcases q with q | d
  · exact .next (State.setReg_pc_of_ne _ _ (mt (congrArg PairReg.reg) hq))
  all_goals exact .raise s

theorem exg_pcKept (s : State) {p q : PairReg} (hp : p ≠ .reg .PC) (hq : q ≠ .reg .PC) : PcKept s (execExg p q s) := by
  rcases p with p | c <;> rcases q with q | d
  · have second := State.setReg_pc_of_ne ((s.ld1 p).ld2 q) ((s.ld1 p).ld2 q).r2 (mt (congrArg PairReg.reg) hp)
    exact .next ((State.setReg_pc_of_ne _ _ (mt (congrArg PairReg.reg) hq)).trans second)
  all_goals exact .raise s

theorem State.Pushed.pc {s t : State} (h : s.Pushed t) : t.pc = s.pc := by rw [h]

/-- A pull of a list without PC leaves PC (R471, R473). -/
theorem pull_pcKept (s : State) {p : (Byte → Instr) × Stack} (hp : p ∈ [(Instr.puls, Stack.S), (.pulu, .U)]) {l : Byte}
    (hl : l.getLsbD 7 = false) : PcKept s (exec (p.1 l) s) := by
  obtain ⟨t, meaning, -, -, -, -, -, -, -, pc, -⟩ := pullRegisterList p hp l s
  rw [meaning]
  exact .next (pc.trans (if_neg (Bool.eq_false_iff.mp hl)))

theorem cwai_pcKept (s : State) (m : Byte) : PcKept s (exec (.cwai m) s) := by
  rw [exec_cwai]
  refine .next ?_
  rw [State.wait, State.pushBytes_eq]
  rfl

/-- No instruction but those that transfer control writes PC (R39). -/
theorem exec_pcKept {i : Instr} (hi : transfers i = false) (s : State) : PcKept s (exec i s) := by
  cases i with
  | lda src | ldb src => exact load8_pcKept s (by decide) src
  | ldd src | ldx src | ldy src | ldu src | lds src => exact load16_pcKept s (by decide) src
  | sta m | stb m => exact store8_pcKept s m
  | std m | stx m | sty m | stu m | sts m => exact store16_pcKept s m
  | leax ix | leay ix => exact leaZ_pcKept s (by decide) ix
  | leas ix | leau ix => exact lea_pcKept s (by decide) ix
  | tfr p q =>
    have hq : (q == .reg .PC) = false := hi
    exact tfr_pcKept s (by simpa using hq)
  | exg p q =>
    have hpq : (p == .reg .PC || q == .reg .PC) = false := hi
    obtain ⟨hp, hq⟩ := Bool.or_eq_false_iff.mp hpq
    exact exg_pcKept s (by simpa using hp) (by simpa using hq)
  | adda src | addb src => exact binary8_pcKept s (by decide) (State.alu_pc .add8) src
  | adca src | adcb src => exact binary8_pcKept s (by decide) (State.alu_pc .adc8) src
  | addd src => exact binary16_pcKept s (by decide) (State.alu_pc .add16) src
  | suba src | subb src => exact binary8_pcKept s (by decide) (State.alu_pc .sub8) src
  | sbca src | sbcb src => exact binary8_pcKept s (by decide) (State.alu_pc .sbc8) src
  | subd src => exact binary16_pcKept s (by decide) (State.alu_pc .sub16) src
  | cmpa src | cmpb src => exact test8_pcKept s (State.alu_pc .sub8) src
  | cmpd src | cmpy src | cmpu src | cmps src => exact test16_pcKept s (State.alu_pc .sub16) src
  | cmpx src => exact cmpx_pcKept s src
  | neg m => exact readModifyWrite_pcKept s (State.alu_pc .neg8) m
  | nega | negb => exact unaryReg_pcKept s (by decide) (State.alu_pc .neg8)
  | inc m => exact readModifyWrite_pcKept s (State.alu_pc .inc8) m
  | inca | incb => exact unaryReg_pcKept s (by decide) (State.alu_pc .inc8)
  | dec m => exact readModifyWrite_pcKept s (State.alu_pc .dec8) m
  | deca | decb => exact unaryReg_pcKept s (by decide) (State.alu_pc .dec8)
  | tst m | clr m => exact .orIllegal (fun _ => State.resolveEA_pc) fun _ => rfl
  | daa => exact .next (State.alu_pc .daa s)
  | anda src | andb src => exact binary8_pcKept s (by decide) (State.alu_pc .and8) src
  | ora src | orb src => exact binary8_pcKept s (by decide) (State.alu_pc .or8) src
  | eora src | eorb src => exact binary8_pcKept s (by decide) (State.alu_pc .eor8) src
  | bita src | bitb src => exact test8_pcKept s (State.alu_pc .and8) src
  | com m => exact readModifyWrite_pcKept s (State.alu_pc .com8) m
  | coma | comb => exact unaryReg_pcKept s (by decide) (State.alu_pc .com8)
  | lsr m => exact readModifyWrite_pcKept s (State.alu_pc .lsr8) m
  | lsra | lsrb => exact unaryReg_pcKept s (by decide) (State.alu_pc .lsr8)
  | ror m => exact readModifyWrite_pcKept s (State.alu_pc .ror8) m
  | rora | rorb => exact unaryReg_pcKept s (by decide) (State.alu_pc .ror8)
  | asr m => exact readModifyWrite_pcKept s (State.alu_pc .asr8) m
  | asra | asrb => exact unaryReg_pcKept s (by decide) (State.alu_pc .asr8)
  | lsl m => exact readModifyWrite_pcKept s (State.alu_pc .lsl8) m
  | lsla | lslb => exact unaryReg_pcKept s (by decide) (State.alu_pc .lsl8)
  | rol m => exact readModifyWrite_pcKept s (State.alu_pc .rol8) m
  | rola | rolb => exact unaryReg_pcKept s (by decide) (State.alu_pc .rol8)
  | pshs l | pshu l => exact .next (State.Pushed.pushList s _ l).pc
  | puls l => exact pull_pcKept (p := (.puls, .S)) s (by simp) hi
  | pulu l => exact pull_pcKept (p := (.pulu, .U)) s (by simp) hi
  | cwai m => exact cwai_pcKept s m
  | tsta | tstb | clra | clrb | mul | sex | abx | andcc m | orcc m | brn d | lbrn d | sync | nop | prefix10 | prefix11 =>
    exact .next rfl
  | _ => cases hi

/-- A branch that is not taken writes no PC (R420). -/
theorem NotTaken.pcKept {s : State} {i : Instr} (h : NotTaken s i) : PcKept s (exec i s) := by
  obtain ⟨p, hp, d, rfl, stays⟩ | ⟨p, hp, d, rfl, stays⟩ := h
  · obtain ⟨t, meaning, branches, -⟩ := conditionalBranches.1 p hp d s
    rw [if_neg (Bool.eq_false_iff.mp stays)] at branches
    exact meaning ▸ .next branches.1
  · obtain ⟨t, meaning, branches, -⟩ := conditionalBranches.2 p hp d s
    rw [if_neg (Bool.eq_false_iff.mp stays)] at branches
    exact meaning ▸ .next branches.1

/-! ### The end of a step -/

/-- With no latch set the check changes nothing (R606, R607). -/
theorem State.checkInterrupts_of_clear {s : State} (h : ∀ k, s.latches.get k = false) : s.checkInterrupts = s := by
  have masked (k : IntKind) : serviceable s k = false := by
    have latch := h k
    cases k <;> simp [serviceable, latch]
  have none : s.latches.any = false := by
    simp only [Latches.any, show s.latches.reset = false from h .reset, show s.latches.nmi = false from h .nmi,
      show s.latches.firq = false from h .firq, show s.latches.irq = false from h .irq, Bool.or_self]
  rw [State.checkInterrupts_of_none masked, State.awake, if_neg (by simp [none])]

theorem State.endCycle_pc (s : State) : s.endCycle.pc = s.pc := by
  unfold State.endCycle
  split <;> rfl

/-- The step of an instruction that transfers no control ends past its bytes, with nothing latched (R575). -/
theorem step_ends_past {s : State} {i : Instr} {n : Nat} (table : DefaultTable s) (h : decode (stream s) = .instr i n)
    (run : s.run = .running) (hp : s.Proceeds) (quiet : s.latches = .clear) (hd : s.deviceFree = true)
    (stays : transfers i = false ∨ NotTaken s i) : ∃ t, step s = .next t ∧ t.pc = s.pc + BitVec.ofNat 16 n := by
  have kept : PcKept (fetched s n) (exec i (fetched s n)) :=
    stays.elim (fun hi => exec_pcKept hi _) fun h => NotTaken.pcKept (s := fetched s n) h
  obtain ⟨u, done⟩ := Completes.exec (s := fetched s n) i hp
  have clear (k : IntKind) : u.endCycle.latches.get k = false := by
    refine Bool.eq_false_iff.mpr fun set => ?_
    have set : s.latches.get k = true := ((exec_keeps done).trans (Keeps.endCycle u)).latches hd k set
    rw [quiet] at set
    cases k <;> cases set
  refine ⟨u.endCycle, ?_, u.endCycle_pc.trans (kept u done)⟩
  rw [stepRunsDecoded.1 s i n table run h, done]
  exact congrArg _ (State.checkInterrupts_of_clear clear)

/-- Settles O14: the length is the decoder's over either table; the step ends past it where PC is kept, and past the
raise. -/
theorem decoderAgreesOnBoundaries : Obligations.DecoderAgreesOnBoundaries := by
  intro s labels table
  have length := State.decodeOne_length table labels
  refine ⟨fun i n h => ⟨?_, fun run hp quiet hd stays => step_ends_past table h run hp quiet hd stays⟩,
    fun o p n h => ⟨?_, (State.lookups_of_illegal h).1.2.2, fun run hp quiet => ?_⟩⟩
  · rw [length, h]
    rfl
  · rw [length, h]
    rfl
  · have clear (k : IntKind) : (raisedAt s o p n).latches.get k = false := by
      show s.latches.get k = false
      rw [quiet]
      cases k <;> rfl
    refine ⟨_, step_of_illegal table run hp h, ?_⟩
    rw [State.checkInterrupts_of_clear clear]
    exact ⟨rfl, by simp [raisedAt]⟩

end Sys2Proof.Machine
end
